-- ==== Sys2Proof/Word.lean ====
section
/-! DEFINITION. The byte and the 32-bit header word (00_scope R13, 20_memory R58). -/

namespace Sys2Proof

/-- A byte, 0 to 255 (R13). -/
abbrev Byte := BitVec 8

/-- A 32-bit word of the file header (20_memory R58). -/
abbrev Word32 := BitVec 32

end Sys2Proof
end

