-- ==== Sys2Proof/Config.lean ====
section
/-! DEFINITION. Fixed constants (00_scope R9), implementation parameters (00_scope R10) and the two free values,
the longest file the host hands over (93_implementation_defined U7) and the sink's answer (20_memory R53, U1). -/

namespace Sys2Proof

/-- The register sink's answer to one `SinkWrite` (20_memory R52, R53). -/
inductive SinkAnswer where
  | ok
  | ioError
deriving DecidableEq, Repr, Inhabited

namespace Config

/-- `PSG_CLOCK` (R9). -/
def psgClock : Nat := 3579545

/-- `TONE_DIV` (R9). -/
def toneDiv : Nat := 32

/-- `REG_MAX` (R9). -/
def regMax : Nat := 1021

/-- `VGM_TAG`, ASCII "Vgm " (R9, 40_loader R121). -/
def vgmTag : List Byte := [0x56, 0x67, 0x6D, 0x20]

/-- `VGM_VERSION` (R9). -/
def vgmVersion : Word32 := 0x00000150

/-- The only accepted header clock word, `PSG_CLOCK` as a 32-bit word (40_loader R123). -/
def clockWord : Word32 := BitVec.ofNat 32 psgClock

/-- `STREAM_BASE` (R9). -/
def streamBase : Nat := 0x40

/-- `LOOP_FIELD` (R9). -/
def loopField : Nat := 0x1C

/-- `SAMPLES_PER_TICK` (R9). -/
def samplesPerTick : Nat := 735

/-- `TONE_BASE` (R9). -/
def toneBase : Byte := 0b10000000

/-- `VOL_BASE` (R9). -/
def volBase : Byte := 0b10010000

/-- `NOISE_BASE`, a parameter with the default the document gives (R9, R10, D18; log 12). -/
def noiseBase : Byte := 0b11110000

/-- `RESET_SEQ` (R9, 42_register_encoder R180). -/
def resetSeq : List Byte := [0x9F, 0xBF, 0xDF, 0xFF]

/-- `HAS_DEBUG_READ`, a parameter, default false (R10, U8; log 11). -/
def hasDebugRead : Bool := false

/-- `MAX_FILE_LEN`, the parameter the spec leaves OPEN: the longest file the host hands to LOAD, none where there is no
limit. A FREE VALUE of the instance, nothing constrains it (R10, 93_implementation_defined U7; log 10). -/
opaque maxFileLen : Option Nat

/-- The sink's answer to its n-th `SinkWrite` since power-on, where the state lists none: a FREE VALUE, nothing in
the spec constrains it (20_memory R53, U1; log 4). -/
opaque sinkAnswer : Nat → SinkAnswer

end Config
end Sys2Proof
end

