-- ==== Sys2Proof/Syntax.lean ====
section
/-! DEFINITION. The instructions: one constructor per row of spec/opcode_table.json. -/

namespace Sys2Proof

/-- The rows of the opcode table, in the table's order: the stream commands (30_encoding R82, R85), the host
operations (R98), the chip byte forms (R90, R91, R93, R94). -/
inductive Instr where
  /-- WRITE dd (41_playback R145). -/
  | write (dd : Byte)
  /-- WAIT n, n a count of samples (41_playback R147). -/
  | wait (samples : BitVec 16)
  /-- WAIT1 (41_playback R148). -/
  | wait1
  /-- END (41_playback R149). -/
  | endMark
  /-- ILLEGAL, any other opcode byte (41_playback R150). -/
  | illegal (opcode : Byte)
  /-- RESET (42_register_encoder R181). -/
  | reset
  /-- LOAD(FILE) (40_loader R120). -/
  | load (file : List Byte)
  /-- TICK (41_playback R140). -/
  | tick
  /-- SET_TONE(channel, frequency_hz); operands are a mathematical integer and an exact rational (R99). -/
  | setTone (channel : Int) (frequencyHz : Rat)
  /-- SET_VOLUME(channel, volume) (42_register_encoder R176). -/
  | setVolume (channel volume : Int)
  /-- SET_NOISE(mode, shift_rate) (42_register_encoder R178). -/
  | setNoise (mode shiftRate : Int)
  /-- TONE_LATCH, `1cc0rrrr` (30_encoding R90). -/
  | toneLatch (channel : BitVec 2) (low : BitVec 4)
  /-- TONE_DATA, `00rrrrrr` (30_encoding R91). -/
  | toneData (high : BitVec 6)
  /-- VOLUME, `1cc1aaaa` (30_encoding R93). -/
  | volume (channel : BitVec 2) (attenuation : BitVec 4)
  /-- NOISE, `11110mss` (30_encoding R94). -/
  | noise (mode : BitVec 1) (shiftRate : BitVec 2)
deriving DecidableEq, Repr

end Sys2Proof
end

