-- ==== Sys2Proof/WellFormed.lean ====
section
/-! DEFINITION. Which terms of `Instr` stand for something the spec encodes. -/

namespace Sys2Proof

/-- The four opcode bytes of the command set (30_encoding R82). -/
def legalOpcodes : List Byte := [0x50, 0x61, 0x62, 0x66]

/-- A term is well formed when the spec has an encoding for it: `illegal` carries one of the 252 other opcode bytes
(30_encoding R85), a tone latch names channel 0 to 2 (R90). Host operations take every operand of their type: an
operand outside its domain is answered with a fault, not ill formed (R99). -/
def Instr.wf : Instr → Bool
  | .illegal op => !legalOpcodes.contains op
  | .toneLatch channel _ => channel != 3
  | .write _ | .wait _ | .wait1 | .endMark => true
  | .reset | .load _ | .tick | .setTone _ _ | .setVolume _ _ | .setNoise _ _ => true
  | .toneData _ | .volume _ _ | .noise _ _ => true

end Sys2Proof
end

