-- ==== Sys2Proof/Decode.lean ====
section
/-! DEFINITION. The decoders of the three code spaces (30_encoding), total on any input and refusing by name, then the
encoders, written from the same tables. -/

namespace Sys2Proof

/-- Why a byte sequence is no stream command. -/
inductive DecodeError where
  /-- There is no opcode byte (41_playback R143). -/
  | noOpcode
  /-- The k-th byte of the command is not there, its opcode being WRITE or WAIT (30_encoding R87, 41_playback R144). -/
  | missingOperand (k : Nat)
deriving DecidableEq, Repr

/-- The WAIT operand `u16(lo,hi) = lo + 256*hi` (00_scope R14, 30_encoding R83): `hi` is the high byte. -/
def u16 (lo hi : Byte) : BitVec 16 := hi ++ lo

/-- Reads one command from the front of a byte sequence: the whole opcode byte is compared, and it alone fixes the
length (30_encoding R80, R81, R85, R86). -/
def decode : List Byte → Except DecodeError Instr
  | [] => .error .noOpcode
  | op :: operands =>
    if op = 0x50 then
      match operands with
      | dd :: _ => .ok (.write dd)
      | [] => .error (.missingOperand 1)
    else if op = 0x61 then
      match operands with
      | lo :: hi :: _ => .ok (.wait (u16 lo hi))
      | [_] => .error (.missingOperand 2)
      | [] => .error (.missingOperand 1)
    else if op = 0x62 then .ok .wait1
    else if op = 0x66 then .ok .endMark
    else .ok (.illegal op)

/-- The host operation a label stands for, with operands of zeros; a label is a key of the table and carries no
operands (30_encoding R98, D2). -/
def hostOperation : Nat → Option Instr
  | 0 => some .reset
  | 1 => some (.load [])
  | 2 => some .tick
  | 3 => some (.setTone 0 0)
  | 4 => some (.setVolume 0 0)
  | 5 => some (.setNoise 0 0)
  | _ => none

/-- Every form a chip byte can be read as (30_encoding R89 to R94): `0xF0` to `0xF7` are read as VOLUME and as NOISE,
which the byte alone cannot tell apart (R95). -/
def chipForms (b : Byte) : List Instr :=
  (if b &&& 0x90#8 = 0x80#8 ∧ b.extractLsb' 5 2 ≠ 3#2
    then [.toneLatch (b.extractLsb' 5 2) (b.extractLsb' 0 4)] else []) ++
  (if b &&& 0xC0#8 = 0x00#8 then [.toneData (b.extractLsb' 0 6)] else []) ++
  (if b &&& 0x90#8 = 0x90#8 then [.volume (b.extractLsb' 5 2) (b.extractLsb' 0 4)] else []) ++
  (if b &&& 0xF8#8 = Config.noiseBase then [.noise (b.extractLsb' 2 1) (b.extractLsb' 0 2)] else [])

/-- Tone latch byte, `TONE_BASE | (channel << 5) | low` (30_encoding R90). -/
def toneLatchByte (channel : BitVec 2) (low : BitVec 4) : Byte :=
  Config.toneBase ||| (channel.zeroExtend 8 <<< 5) ||| low.zeroExtend 8

/-- Tone data byte, the high 6 bits of the tone value under a clear bit 7 (30_encoding R91). -/
def toneDataByte (high : BitVec 6) : Byte := high.zeroExtend 8

/-- Volume latch byte, `VOL_BASE | (channel << 5) | attenuation` (30_encoding R93). -/
def volumeByte (channel : BitVec 2) (attenuation : BitVec 4) : Byte :=
  Config.volBase ||| (channel.zeroExtend 8 <<< 5) ||| attenuation.zeroExtend 8

/-- Noise byte over a given base, `base | (mode << 2) | shift_rate` (30_encoding R94, D18). -/
def noiseByteOver (base : Byte) (mode : BitVec 1) (shiftRate : BitVec 2) : Byte :=
  base ||| (mode.zeroExtend 8 <<< 2) ||| shiftRate.zeroExtend 8

/-- Noise byte, over `NOISE_BASE` (30_encoding R94). -/
def noiseByte (mode : BitVec 1) (shiftRate : BitVec 2) : Byte := noiseByteOver Config.noiseBase mode shiftRate

/-- The label of a host operation (30_encoding R98). -/
def hostLabel : Instr → Option Nat
  | .reset => some 0
  | .load _ => some 1
  | .tick => some 2
  | .setTone _ _ => some 3
  | .setVolume _ _ => some 4
  | .setNoise _ _ => some 5
  | .write _ | .wait _ | .wait1 | .endMark | .illegal _ => none
  | .toneLatch _ _ | .toneData _ | .volume _ _ | .noise _ _ => none

/-- The bytes the table gives an instruction: a stream command with its operands (30_encoding R81, R88), a chip byte
(R90, R91, R93, R94), and of a host operation its label alone, the spec giving its operands no binary form (R98, D2). -/
def encode : Instr → List Byte
  | .write dd => [0x50, dd]
  | .wait n => [0x61, n.extractLsb' 0 8, n.extractLsb' 8 8]
  | .wait1 => [0x62]
  | .endMark => [0x66]
  | .illegal op => [op]
  | .reset => [0x00]
  | .load _ => [0x01]
  | .tick => [0x02]
  | .setTone _ _ => [0x03]
  | .setVolume _ _ => [0x04]
  | .setNoise _ _ => [0x05]
  | .toneLatch channel low => [toneLatchByte channel low]
  | .toneData high => [toneDataByte high]
  | .volume channel attenuation => [volumeByte channel attenuation]
  | .noise mode shiftRate => [noiseByte mode shiftRate]

/-- The stream commands, what a tick fetches (30_encoding R82, R85). -/
def Instr.isStream : Instr → Bool
  | .write _ | .wait _ | .wait1 | .endMark | .illegal _ => true
  | .reset | .load _ | .tick | .setTone _ _ | .setVolume _ _ | .setNoise _ _ => false
  | .toneLatch _ _ | .toneData _ | .volume _ _ | .noise _ _ => false

/-- The host operations (30_encoding R98). -/
def Instr.isHost (i : Instr) : Bool := (hostLabel i).isSome

/-- The chip byte forms (30_encoding R89). -/
def Instr.isChip : Instr → Bool
  | .toneLatch _ _ | .toneData _ | .volume _ _ | .noise _ _ => true
  | .write _ | .wait _ | .wait1 | .endMark | .illegal _ => false
  | .reset | .load _ | .tick | .setTone _ _ | .setVolume _ _ | .setNoise _ _ => false

/-- The first n bytes of a number, bit 0 the least significant bit of the first byte. -/
def bytesOf : Nat → Nat → List Byte
  | 0, _ => []
  | n + 1, w => BitVec.ofNat 8 w :: bytesOf n (w / 256)

/-- The bytes of a table word: nbits bits of w, then zeros up to the longest command, 3 bytes (30_encoding R81). -/
def tableBytes (nbits w : Nat) : List Byte := bytesOf (max 3 ((nbits + 7) / 8)) (w % 2 ^ nbits)

/-- The chip form a table word is taken as: the NOISE row where its narrower mask matches, else the first. -/
def chipFormOfWord (b : Byte) : Option Instr := (chipForms b).getLast?

/-- The instruction a word of the opcode table stands for. The table's three code spaces share their numbers, so the
spaces are asked in a fixed order: the four legal stream commands, the host labels, the chip byte forms, and last the
illegal opcodes of the stream (DESIGN CHOICE, log 2). -/
def decodeTableWord (nbits w : Nat) : Option Instr :=
  let bytes := tableBytes nbits w
  match decode bytes with
  | .error _ => none
  | .ok (.illegal op) =>
    match hostOperation op.toNat with
    | some i => some i
    | none =>
      match chipFormOfWord op with
      | some i => some i
      | none => some (.illegal op)
  | .ok i => some i

end Sys2Proof
end

