-- ==== Sys2Proof/Machine/State.lean ====
section
/-! DEFINITION. The state of the block, plain data (10_state R20 to R31), the faults it reports, its reset value, and
the two reasons for which the model stops. -/

namespace Sys2Proof.Machine

/-- A latched playback fault (10_state R28). Offsets are indices into the command stream (D26); the offset of a
truncation can be a negative loop offset (60_exceptions R237). -/
inductive PlaybackFault where
  /-- `UnknownCommandError(offset, byte)` (60_exceptions R236). -/
  | unknownCommand (offset : Nat) (byte : Byte)
  /-- `TruncatedStreamError(offset)` (60_exceptions R237). -/
  | truncatedStream (offset : Int)
  /-- `SinkIoError` (60_exceptions R239). -/
  | sinkIo
deriving DecidableEq, Repr

/-- Every fault the block can report to the host, in the order of 60_exceptions R230. -/
inductive BlockFault where
  /-- Code 1 (R231). -/
  | invalidHeader
  /-- Code 2, `got` the word at file offset 8 (R232). -/
  | unsupportedVersion (got : Word32)
  /-- Code 3, `got` the word at file offset 12 (R233). -/
  | unsupportedClock (got : Word32)
  /-- Code 4 (R234). -/
  | truncatedFile
  /-- Code 5 (R235). -/
  | endOfSong
  /-- Codes 6, 7 and 10 (R236, R237, R239). -/
  | playback (f : PlaybackFault)
  /-- Code 8 (R238). -/
  | outOfRangeParameter
deriving DecidableEq, Repr

/-- The response to one host operation: ok, or a fault with its information (30_encoding R100). -/
inductive Response where
  | ok
  | fault (f : BlockFault)
deriving DecidableEq, Repr

/-- IDLE: no tick is in progress; RUN: a tick is executing stream commands, one a step (10_state R30). -/
inductive Phase where
  | idle
  | run
deriving DecidableEq, Repr

/-- The six operations a host can request, and nothing else (30_encoding R98, D2). -/
inductive HostOp where
  | reset
  | load (file : List Byte)
  | tick
  | setTone (channel : Int) (frequencyHz : Rat)
  | setVolume (channel volume : Int)
  | setNoise (mode shiftRate : Int)
deriving DecidableEq, Repr

/-- The instruction a request asks for. -/
def HostOp.toInstr : HostOp → Instr
  | .reset => .reset
  | .load file => .load file
  | .tick => .tick
  | .setTone channel frequencyHz => .setTone channel frequencyHz
  | .setVolume channel volume => .setVolume channel volume
  | .setNoise mode shiftRate => .setNoise mode shiftRate

/-- The block's items (10_state R20 to R30), the sink trace (R31), and the environment's data. -/
structure State where
  /-- `track.command_stream`; its i-th element is `CS[i]` (R21; log 8). -/
  commandStream : List Byte
  /-- `track.loop_offset` (R22). -/
  loopOffset : Option Int
  /-- `cursor`, the program counter (R24; log 9). -/
  cursor : Nat
  /-- `pending_ticks` (R25; log 9). -/
  pendingTicks : Int
  /-- `ended` (R26). -/
  ended : Bool
  /-- `fault` (R28). -/
  fault : Option PlaybackFault
  /-- `phase` (R30). -/
  phase : Phase
  /-- The sink trace, oldest byte first (R31). -/
  sinkTrace : List Byte
  /-- The responses given so far, oldest first (70_reset_and_hazards R292; log 6). -/
  responses : List Response
  /-- The operations the host will issue, next one first (70_reset_and_hazards R291; log 3). -/
  inbox : List HostOp
  /-- The sink's next answers, one taken per `SinkWrite` (20_memory R53; log 4). -/
  sinkAnswers : List SinkAnswer
  /-- How many `SinkWrite` calls were made; the free value's argument (log 4). -/
  sinkCalls : Nat
  /-- The power-on emission has still to be made (70_reset_and_hazards R271; log 5). -/
  bootPending : Bool
deriving DecidableEq, Repr

/-- `N`, the length of the command stream (R21). -/
abbrev State.N (s : State) : Nat := s.commandStream.length

/-- Power-on (10_state R36, 70_reset_and_hazards R270): every item at its power-on value, the emission of the reset
sequence still to come as the first step (log 5), the environment's data empty (logs 3, 4, 6). -/
def State.reset : State where
  commandStream := []
  loopOffset := none
  cursor := 0
  pendingTicks := 0
  ended := false
  fault := none
  phase := .idle
  sinkTrace := []
  responses := []
  inbox := []
  sinkAnswers := []
  sinkCalls := 0
  bootPending := true

/-- The reasons for which the machine stops. `step` never reaches either (log 7). -/
inductive Fault where
  /-- Raised by the meaning of a host operation where none is accepted: a tick is in progress or the power-on emission
  is still to come. The spec gives no such transition (30_encoding R100, D27). Safe: the model stops. -/
  | operationNotAccepted
  /-- Raised by the meaning of a stream command while no tick is in progress, its rule's precondition being
  `phase = RUN` (41_playback R146). Safe: the model stops. -/
  | noTickInProgress
deriving DecidableEq, Repr

/-- The reasons for which the model refuses. -/
inductive Refusal where
  /-- An instruction with no meaning yet, by its table mnemonic; raised by no arm of exec. Safe: the model stops. -/
  | notModelled (mnemonic : String)
deriving DecidableEq, Repr

end Sys2Proof.Machine
end

