-- ==== Sys2Proof/Machine/Ops.lean ====
section
/-! DEFINITION. The shared operations: reading the command stream, writing to the sink, answering the host, raising a
fault, and the two phases in which a meaning may run. -/

namespace Sys2Proof.Machine

/-- `CS[i]`, defined only below N (00_scope R15, 20_memory R62): the one way to read a byte of the block's memory. -/
def readByte (s : State) (i : Nat) : Option Byte := s.commandStream[i]?

/-- A memory in canonical form lists addresses strictly rising (log 8). -/
abbrev Memory.wf (m : List Host.Cell) : Prop := m.Pairwise fun a b => a.1 < b.1

/-- The command stream as the cells of the address space CS (20_memory R50); an address it does not list has no
value. -/
def memory (s : State) : List Host.Cell := s.commandStream.zipIdx.map fun c => (c.2, c.1)

/-- The sink's answer to the next `SinkWrite`: the environment's, and a free value where the state lists none
(20_memory R53, U1). -/
def nextAnswer (s : State) : SinkAnswer :=
  match s.sinkAnswers with
  | a :: _ => a
  | [] => Config.sinkAnswer s.sinkCalls

/-- One answer of the sink is used up. -/
def takeAnswer (s : State) : State :=
  { s with sinkAnswers := s.sinkAnswers.tail, sinkCalls := s.sinkCalls + 1 }

/-- `SinkWrite(b)`: the byte joins the sink trace exactly when the sink answers ok (20_memory R53). This is RAW
(42_register_encoder R170). -/
def sinkWrite (b : Byte) (s : State) : SinkAnswer × State :=
  match nextAnswer s with
  | .ok => (.ok, { takeAnswer s with sinkTrace := s.sinkTrace ++ [b] })
  | .ioError => (.ioError, takeAnswer s)

/-- Bytes written in order; the first the sink refuses ends the emission, no later one is written (20_memory R53, R54). -/
def emit : List Byte → State → SinkAnswer × State
  | [], s => (.ok, s)
  | b :: bs, s =>
    match sinkWrite b s with
    | (.ok, t) => emit bs t
    | (.ioError, t) => (.ioError, t)

/-- The response ends the operation in progress: it joins the responses and no tick is in progress (30_encoding R100). -/
def respond (r : Response) (s : State) : State :=
  { s with phase := .idle, responses := s.responses ++ [r] }

/-- The playback fault that a fault latches, none for `EndOfSongError`, load and encoder faults (60_exceptions R241). -/
def BlockFault.latched : BlockFault → Option PlaybackFault
  | .playback f => some f
  | .invalidHeader | .unsupportedVersion _ | .unsupportedClock _ | .truncatedFile => none
  | .endOfSong | .outOfRangeParameter => none

/-- The fault's number in the table of 60_exceptions R230 (D15); 9 is the NoteSequencer's. -/
def BlockFault.code : BlockFault → Nat
  | .invalidHeader => 1
  | .unsupportedVersion _ => 2
  | .unsupportedClock _ => 3
  | .truncatedFile => 4
  | .endOfSong => 5
  | .playback (.unknownCommand _ _) => 6
  | .playback (.truncatedStream _) => 7
  | .outOfRangeParameter => 8
  | .playback .sinkIo => 10

/-- `raise F`, the one way a fault is taken (60_exceptions R240): the operation stops, `phase` becomes IDLE, the host is
answered with F; inside a tick a playback fault is also latched (R241). There is no vector and no saved cursor, and no
return: the next operation is accepted as always (R246). -/
def raise (f : BlockFault) (s : State) : State :=
  let latch := match s.phase with
    | .run => f.latched <|> s.fault
    | .idle => s.fault
  respond (.fault f) { s with fault := latch }

/-- Raises a playback fault. -/
def raisePlayback (f : PlaybackFault) (s : State) : State := raise (.playback f) s

/-- Emits bytes, then goes on; a byte the sink refuses stops the operation with `SinkIoError` (20_memory R53,
60_exceptions R239). -/
def emitThen (bytes : List Byte) (next : State → State) (s : State) : State :=
  match emit bytes s with
  | (.ok, t) => next t
  | (.ioError, t) => raisePlayback .sinkIo t

/-- Whether the block accepts a host operation: no tick is in progress (30_encoding R100, D27) and the power-on emission
is done (10_state R36). -/
def State.accepting (s : State) : Bool := s.phase = .idle && !s.bootPending

/-- Runs a host operation where it is accepted. -/
def whenAccepting (act : State → State) (s : State) : Host.Outcome State Fault Refusal :=
  if s.accepting then .next (act s) else .fault .operationNotAccepted

/-- Runs a stream command inside a tick (41_playback R146). -/
def whenRunning (act : State → State) (s : State) : Host.Outcome State Fault Refusal :=
  match s.phase with
  | .run => .next (act s)
  | .idle => .fault .noTickInProgress

/-- Power-on emission: the reset sequence before any operation is accepted; nothing is reported and nothing is latched
if the sink refuses a byte (70_reset_and_hazards R271). -/
def powerOnEmission (s : State) : State := { (emit Config.resetSeq s).2 with bootPending := false }

/-- What a debug read port shows, where the parameter `HAS_DEBUG_READ` gives one: `cursor`, `pending_ticks`, `ended`,
`fault`, at IDLE, with no side effect (93_implementation_defined U8; log 11). -/
def debugRead (hasPort : Bool) (s : State) : Option (Nat × Int × Bool × Option PlaybackFault) :=
  if hasPort && s.phase = .idle then some (s.cursor, s.pendingTicks, s.ended, s.fault) else none

/-- The debug port of this instance. -/
def debugPort (s : State) : Option (Nat × Int × Bool × Option PlaybackFault) := debugRead Config.hasDebugRead s

end Sys2Proof.Machine
end

