-- ==== Sys2Proof/Machine/Operands.lean ====
section
/-! DEFINITION. Operand forms: header words, the WAIT operand, the domains of the host operands, the tone register. -/

namespace Sys2Proof.Machine

/-- `u32le(FILE, o)`, none where a byte of the word is not in the file (00_scope R14, 20_memory R58, 40_loader R129). -/
def u32le (file : List Byte) (o : Nat) : Option Word32 :=
  match file[o]?, file[o + 1]?, file[o + 2]?, file[o + 3]? with
  | some b0, some b1, some b2, some b3 => some (b3 ++ b2 ++ b1 ++ b0)
  | _, _, _, _ => none

/-- The ticks a WAIT adds, `floor(n / 735)`; the remainder is dropped (30_encoding R83, 41_playback R147). -/
def waitTicks (samples : BitVec 16) : Int := ((samples.toNat / Config.samplesPerTick : Nat) : Int)

/-- `channel ∈ {0,1,2}` and `frequency_hz > 0` (30_encoding R99). -/
def toneInDomain (channel : Int) (frequencyHz : Rat) : Bool := 0 ≤ channel && channel ≤ 2 && 0 < frequencyHz.num

/-- `channel ∈ {0,1,2,3}` and `volume ∈ [0,15]` (30_encoding R99). -/
def volumeInDomain (channel volume : Int) : Bool := 0 ≤ channel && channel ≤ 3 && 0 ≤ volume && volume ≤ 15

/-- `mode ∈ {0,1}` and `shift_rate ∈ [0,3]` (30_encoding R99). -/
def noiseInDomain (mode shiftRate : Int) : Bool := 0 ≤ mode && mode ≤ 1 && 0 ≤ shiftRate && shiftRate ≤ 3

/-- `floor(3579545 / (frequency_hz * 32))` before the ceiling: with the frequency a/b in lowest terms,
`floor(3579545 * b / (32 * a))` (42_register_encoder R172). -/
def toneQuotient (frequencyHz : Rat) : Nat :=
  Config.psgClock * frequencyHz.den / (Config.toneDiv * frequencyHz.num.toNat)

/-- The tone register value, `min(reg, 1021)` (42_register_encoder R173). -/
def toneReg (frequencyHz : Rat) : Nat := min (toneQuotient frequencyHz) Config.regMax

/-- The frame of a tone update: latch byte with reg[3:0], then data byte with reg[9:4] (30_encoding R92,
42_register_encoder R174). -/
def toneFrame (channel : Int) (reg : Nat) : List Byte :=
  let r := BitVec.ofNat 10 reg
  [toneLatchByte (BitVec.ofInt 2 channel) (r.extractLsb' 0 4), toneDataByte (r.extractLsb' 4 6)]

/-- The frame of a volume update, attenuation = 15 - volume (42_register_encoder R176). -/
def volumeFrame (channel volume : Int) : List Byte :=
  [volumeByte (BitVec.ofInt 2 channel) (BitVec.ofInt 4 (15 - volume))]

/-- The frame of a noise update (42_register_encoder R178). -/
def noiseFrame (mode shiftRate : Int) : List Byte :=
  [noiseByte (BitVec.ofInt 1 mode) (BitVec.ofInt 2 shiftRate)]

end Sys2Proof.Machine
end

