-- ==== Sys2Proof/Machine/Encoder.lean ====
section
/-! DEFINITION. The meanings of SET_TONE, SET_VOLUME, SET_NOISE (42_register_encoder R171 to R179) and of the chip byte
forms (30_encoding R90 to R94). -/

namespace Sys2Proof.Machine

/-- A SET operation: the operand check before any byte, then the frame, then ok; no item of the block's state is read or
written (42_register_encoder R171, R176, R178, R182). -/
def setOperation (inDomain : Bool) (frame : List Byte) (s : State) : State :=
  if inDomain then emitThen frame (respond .ok) s else raise .outOfRangeParameter s

/-- SET_TONE (42_register_encoder R171 to R174). -/
def execSetTone (channel : Int) (frequencyHz : Rat) (s : State) : Host.Outcome State Fault Refusal :=
  whenAccepting (setOperation (toneInDomain channel frequencyHz) (toneFrame channel (toneReg frequencyHz))) s

/-- SET_VOLUME (42_register_encoder R176). -/
def execSetVolume (channel volume : Int) (s : State) : Host.Outcome State Fault Refusal :=
  whenAccepting (setOperation (volumeInDomain channel volume) (volumeFrame channel volume)) s

/-- SET_NOISE (42_register_encoder R178). -/
def execSetNoise (mode shiftRate : Int) (s : State) : Host.Outcome State Fault Refusal :=
  whenAccepting (setOperation (noiseInDomain mode shiftRate) (noiseFrame mode shiftRate)) s

/-- RAW of one byte the encoder built: the byte goes to the sink and no item of the block's state is touched
(42_register_encoder R170; log 1). -/
def rawByte (b : Byte) (s : State) : State := emitThen [b] id s

/-- TONE_LATCH: the first byte of a tone frame goes out (30_encoding R90, 42_register_encoder R174; log 1). -/
def execToneLatch (channel : BitVec 2) (low : BitVec 4) (s : State) : Host.Outcome State Fault Refusal :=
  .next (rawByte (toneLatchByte channel low) s)

/-- TONE_DATA: the second byte of a tone frame goes out (30_encoding R91, 42_register_encoder R174; log 1). -/
def execToneData (high : BitVec 6) (s : State) : Host.Outcome State Fault Refusal :=
  .next (rawByte (toneDataByte high) s)

/-- VOLUME: a volume byte goes out (30_encoding R93, 42_register_encoder R176; log 1). -/
def execVolume (channel : BitVec 2) (attenuation : BitVec 4) (s : State) : Host.Outcome State Fault Refusal :=
  .next (rawByte (volumeByte channel attenuation) s)

/-- NOISE: a noise byte goes out (30_encoding R94, 42_register_encoder R178; log 1). -/
def execNoise (mode : BitVec 1) (shiftRate : BitVec 2) (s : State) : Host.Outcome State Fault Refusal :=
  .next (rawByte (noiseByte mode shiftRate) s)

end Sys2Proof.Machine
end

