-- ==== Sys2Proof/Machine/Flags.lean ====
section
/-! DEFINITION. The block's one flag `ended` and the fault latch, where they are tested and written (10_state R26, R28);
there are no condition codes. -/

namespace Sys2Proof.Machine

/-- What a TICK is answered without running: the latched fault first, then the end of the song (41_playback R140,
60_exceptions R245). -/
def tickVerdict (s : State) : Option BlockFault :=
  match s.fault with
  | some f => some (.playback f)
  | none => if s.ended then some .endOfSong else none

/-- END with no loop sets `ended` (41_playback R149); nothing else does (10_state R26). -/
def setEnded (s : State) : State := { s with ended := true }

/-- A successful LOAD clears `ended` and `fault` (40_loader R128). -/
def clearVerdict (s : State) : State := { s with ended := false, fault := none }

end Sys2Proof.Machine
end

