-- ==== Sys2Proof/Machine/HostOps.lean ====
section
/-! DEFINITION. The meanings of RESET (42_register_encoder R181), LOAD (40_loader R120 to R132) and TICK (41_playback
R140, R141). -/

namespace Sys2Proof.Machine

/-- What RESET does once its four bytes are out: the cursor alone is written, the answer is ok (R181, D13). -/
def rewind (s : State) : State := respond .ok { s with cursor := 0 }

/-- RESET (42_register_encoder R181). -/
def execReset (s : State) : Host.Outcome State Fault Refusal :=
  whenAccepting (emitThen Config.resetSeq rewind) s

/-- A loaded track: the command stream and the loop offset (10_state R21, R22). -/
structure Track where
  commandStream : List Byte
  loopOffset : Option Int
deriving DecidableEq, Repr

/-- Step 1, the tag (40_loader R121). -/
def tagOk (file : List Byte) : Bool := file.take 4 = Config.vgmTag

/-- Step 5, the loop field, on unbounded integers (40_loader R126, D24). -/
def loopOffsetOf (loopRaw : Word32) : Option Int :=
  if loopRaw = 0 then none else some ((loopRaw.toNat : Int) + Config.loopField - Config.streamBase)

/-- The file bytes `[0x40, eof_offset + 4)`, empty where the range is (40_loader R125). -/
def streamOf (file : List Byte) (eofOffset : Word32) : List Byte :=
  (file.take (eofOffset.toNat + 4)).drop Config.streamBase

/-- The five steps in order; the first that fails gives the fault (40_loader R121 to R131). -/
def parseVgm (file : List Byte) : Except BlockFault Track :=
  if !tagOk file then .error .invalidHeader else
  match u32le file 8 with
  | none => .error .truncatedFile
  | some version =>
  if version ≠ Config.vgmVersion then .error (.unsupportedVersion version) else
  match u32le file 12 with
  | none => .error .truncatedFile
  | some clock =>
  if clock ≠ Config.clockWord then .error (.unsupportedClock clock) else
  match u32le file 4 with
  | none => .error .truncatedFile
  | some eofOffset =>
  if file.length < eofOffset.toNat + 4 then .error .truncatedFile else
  match u32le file Config.loopField with
  | none => .error .truncatedFile
  | some loopRaw => .ok ⟨streamOf file eofOffset, loopOffsetOf loopRaw⟩

/-- The commit of a successful LOAD: the new track, and the engine Ready (40_loader R128). -/
def commitTrack (t : Track) (s : State) : State :=
  clearVerdict { s with
    commandStream := t.commandStream, loopOffset := t.loopOffset, cursor := 0, pendingTicks := 0 }

/-- LOAD's effect: commit and answer ok, or answer the fault with nothing else changed (40_loader R128, R132). -/
def loadFile (file : List Byte) (s : State) : State :=
  match parseVgm file with
  | .ok t => respond .ok (commitTrack t s)
  | .error f => raise f s

/-- LOAD(FILE) (40_loader R120). -/
def execLoad (file : List Byte) (s : State) : Host.Outcome State Fault Refusal :=
  whenAccepting (loadFile file) s

/-- The decrement and what follows: a counter above zero before it ends the tick ok, else interpretation starts
(41_playback R141). -/
def spendTick (s : State) : State :=
  let t := { s with pendingTicks := s.pendingTicks - 1 }
  if 0 < s.pendingTicks then respond .ok t else { t with phase := .run }

/-- TICK's entry: the latched fault or the end of the song answered again with nothing changed, else the decrement
(41_playback R140, R141). -/
def startTick (s : State) : State :=
  match tickVerdict s with
  | some f => raise f s
  | none => spendTick s

/-- TICK (41_playback R140). -/
def execTick (s : State) : Host.Outcome State Fault Refusal :=
  whenAccepting startTick s

end Sys2Proof.Machine
end

