-- ==== Sys2Proof/Machine/Stream.lean ====
section
/-! DEFINITION. The meanings of the stream commands WRITE, WAIT, WAIT1, END and of an illegal opcode (41_playback R145
to R150). -/

namespace Sys2Proof.Machine

/-- A retired command moves the cursor past itself (10_state R24). -/
def advance (n : Nat) (s : State) : State := { s with cursor := s.cursor + n }

/-- A wait adds whole ticks to the counter, moves past itself and ends the tick ok (41_playback R147, R148). -/
def pause (ticks : Int) (length : Nat) (s : State) : State :=
  respond .ok (advance length { s with pendingTicks := s.pendingTicks + ticks })

/-- WRITE dd: `RAW(dd); cursor <- cursor + 2`, the tick goes on (41_playback R145). -/
def execWrite (dd : Byte) (s : State) : Host.Outcome State Fault Refusal :=
  whenRunning (emitThen [dd] (advance 2)) s

/-- WAIT n (41_playback R147). -/
def execWait (samples : BitVec 16) (s : State) : Host.Outcome State Fault Refusal :=
  whenRunning (pause (waitTicks samples) 3) s

/-- WAIT1 (41_playback R148). -/
def execWait1 (s : State) : Host.Outcome State Fault Refusal :=
  whenRunning (pause 1 1) s

/-- Where END goes: to the loop offset if it is below N and not negative, else the offset is the fault's (41_playback
R149, D9). -/
def jumpToLoop (offset : Int) (s : State) : State :=
  if 0 ≤ offset ∧ offset < s.N then { s with cursor := offset.toNat }
  else raisePlayback (.truncatedStream offset) s

/-- END's effect, by the loop offset (41_playback R149). -/
def endOfStream (s : State) : State :=
  match s.loopOffset with
  | some offset => jumpToLoop offset s
  | none => respond .ok (setEnded (advance 1 s))

/-- END (41_playback R149). -/
def execEndMark (s : State) : Host.Outcome State Fault Refusal :=
  whenRunning endOfStream s

/-- An illegal opcode: `UnknownCommandError(cursor, op)`, the cursor stays (41_playback R150). -/
def unknownOpcode (op : Byte) (s : State) : State := raisePlayback (.unknownCommand s.cursor op) s

/-- ILLEGAL (41_playback R150). -/
def execIllegal (op : Byte) (s : State) : Host.Outcome State Fault Refusal :=
  whenRunning (unknownOpcode op) s

end Sys2Proof.Machine
end

