-- ==== Sys2Proof/Machine/Dispatch.lean ====
section
/-! DEFINITION. What each instruction does: one arm per constructor. -/

namespace Sys2Proof.Machine

def exec (i : Instr) (s : State) : Host.Outcome State Fault Refusal :=
  match i with
  | .write dd => Sys2Proof.Machine.execWrite dd s
  | .wait samples => Sys2Proof.Machine.execWait samples s
  | .wait1 => Sys2Proof.Machine.execWait1 s
  | .endMark => Sys2Proof.Machine.execEndMark s
  | .illegal op => Sys2Proof.Machine.execIllegal op s
  | .reset => Sys2Proof.Machine.execReset s
  | .load file => Sys2Proof.Machine.execLoad file s
  | .tick => Sys2Proof.Machine.execTick s
  | .setTone channel frequencyHz => Sys2Proof.Machine.execSetTone channel frequencyHz s
  | .setVolume channel volume => Sys2Proof.Machine.execSetVolume channel volume s
  | .setNoise mode shiftRate => Sys2Proof.Machine.execSetNoise mode shiftRate s
  | .toneLatch channel low => Sys2Proof.Machine.execToneLatch channel low s
  | .toneData high => Sys2Proof.Machine.execToneData high s
  | .volume channel attenuation => Sys2Proof.Machine.execVolume channel attenuation s
  | .noise mode shiftRate => Sys2Proof.Machine.execNoise mode shiftRate s

end Sys2Proof.Machine
end

