-- ==== Sys2Proof/Machine/Fetch.lean ====
section
/-! DEFINITION. Where the next instruction comes from: the command stream inside a tick (41_playback R143, R144), the
host's requests outside one (30_encoding R98); and how a word is put there (log 15). -/

namespace Sys2Proof.Machine

/-- The command at the cursor (41_playback R143, R144). -/
def fetch (s : State) : Except DecodeError Instr := decode (s.commandStream.drop s.cursor)

/-- The index a failed fetch reports: the cursor where there is no opcode, else the first operand byte that is not there
(41_playback R143, R144). -/
def truncationOffset (e : DecodeError) (s : State) : Int :=
  match e with
  | .noOpcode => s.cursor
  | .missingOperand k => ((s.cursor + k : Nat) : Int)

/-- A failed fetch: `TruncatedStreamError`, the command has no effect (41_playback R143, R144). -/
def fetchFault (e : DecodeError) (s : State) : State := raisePlayback (.truncatedStream (truncationOffset e s)) s

/-- The state a request is run in: it is no longer waiting. -/
def takeRequest (rest : List HostOp) (s : State) : State := { s with inbox := rest }

/-- Whether the host issues an operation to the block: it refuses a LOAD of a file longer than the limit before the block
sees it, which is no fault of the block, and nothing else (00_scope R10, 93_implementation_defined U7; log 10). -/
def hostIssues (limit : Option Nat) : HostOp → Bool
  | .load file =>
    match limit with
    | some longest => file.length ≤ longest
    | none => true
  | .reset | .tick | .setTone _ _ | .setVolume _ _ | .setNoise _ _ => true

/-- The host wants these operations next: those it issues under a limit follow the requests that wait
(70_reset_and_hazards R291; logs 3, 10). -/
def State.hostRequestsWithin (limit : Option Nat) (ops : List HostOp) (s : State) : State :=
  { s with inbox := s.inbox ++ ops.filter (hostIssues limit) }

/-- The host of this instance, under `MAX_FILE_LEN`. -/
def State.hostRequests (ops : List HostOp) (s : State) : State := s.hostRequestsWithin Config.maxFileLen ops

/-- The request an instruction is, none for a stream command and a chip byte form. -/
def requestOf : Instr → Option HostOp
  | .reset => some .reset
  | .load file => some (.load file)
  | .tick => some .tick
  | .setTone channel frequencyHz => some (.setTone channel frequencyHz)
  | .setVolume channel volume => some (.setVolume channel volume)
  | .setNoise mode shiftRate => some (.setNoise mode shiftRate)
  | .write _ | .wait _ | .wait1 | .endMark | .illegal _ => none
  | .toneLatch _ _ | .toneData _ | .volume _ _ | .noise _ _ => none

/-- Bytes laid over a byte sequence from an index on, zeros before it where the sequence is shorter. -/
def layAt (stream : List Byte) (at_ : Nat) (bytes : List Byte) : List Byte :=
  stream.take at_ ++ List.replicate (at_ - stream.length) 0 ++ bytes ++ stream.drop (at_ + bytes.length)

/-- Bytes stored at the cursor, a tick in progress: the next step fetches them. -/
def placeCommand (bytes : List Byte) (s : State) : State :=
  { s with commandStream := layAt s.commandStream s.cursor bytes, phase := .run, bootPending := false }

/-- A request put first, no tick in progress: the next step accepts it. -/
def placeRequest (op : HostOp) (s : State) : State :=
  { s with inbox := op :: s.inbox, phase := .idle, bootPending := false }

/-- A table word put where the next step runs it: a stream command at the cursor, a host operation first among the
requests, a chip byte as the operand of WRITE, the one instruction that carries one (30_encoding R84; logs 1, 15). -/
def placeTableWord (nbits w : Nat) (s : State) : State :=
  match decodeTableWord nbits w with
  | none => s
  | some i =>
    match requestOf i with
    | some op => placeRequest op s
    | none => placeCommand (if i.isChip then 0x50 :: encode i else tableBytes nbits w) s

end Sys2Proof.Machine
end

