-- ==== Sys2Proof/Machine/Step.lean ====
section
/-! DEFINITION. One step of the machine (00_scope R11, 10_state R30): the power-on emission, or one stream command of the
tick in progress, or one host operation. -/

namespace Sys2Proof.Machine

/-- One step. A tick in progress runs one stream command; otherwise the next request is accepted; with no request the
block stays as it is (10_state R30, 41_playback R142, D17; logs 3, 5). -/
def step (s : State) : Host.Outcome State Fault Refusal :=
  if s.bootPending then .next (powerOnEmission s) else
  match s.phase with
  | .run =>
    match fetch s with
    | .ok i => exec i s
    | .error e => .next (fetchFault e s)
  | .idle =>
    match s.inbox with
    | [] => .next s
    | op :: rest => exec op.toInstr (takeRequest rest s)

/-- The state whose next step runs the table word w of nbits bits (log 15). -/
def State.withFetchWord (s : State) (nbits w : Nat) : State := placeTableWord nbits w s

end Sys2Proof.Machine
end

