-- ==== Sys2Proof/Machine/NoteSequencer.lean ====
section
/-! DEFINITION. The NoteSequencer, host software beside the block (43_note_sequencer_host): from a script to the host
operations it issues and the times it holds. It has no part in `step`; its operations reach the block as requests. -/

namespace Sys2Proof.Machine

/-- The tokens of a script (43 R201, R202). -/
inductive Token where
  | voice (n : Nat)
  | octave (n : Nat)
  | setVol (n : Nat)
  | duration (ticks : Nat)
  | note (index : Nat)
  /-- A character that starts no token (43 R212). -/
  | unknown
deriving DecidableEq, Repr

/-- What the sequencer does: an operation, or a hold in seconds (43 R208). -/
inductive HostAction where
  | issue (op : HostOp)
  | hold (seconds : Rat)
deriving DecidableEq, Repr

/-- How a script ends. -/
inductive ScriptEnd where
  /-- End of input, after the panic-silence (43 R210). -/
  | done
  /-- `UnknownTokenError`, code 9 of 60_exceptions R230 (43 R212). -/
  | unknownToken
  /-- A default was used before it was set; the spec gives the script no meaning (43 R201, D23; log 14). -/
  | unsetDefault
  /-- An operation was answered `OutOfRangeParameter`; the host abandons the script (42_register_encoder R182; log 14). -/
  | encodingError
deriving DecidableEq, Repr

/-- The three mutable defaults, unwritten until set (43 R201). -/
structure Defaults where
  voice : Option Nat
  octave : Option Nat
  duration : Option Nat
deriving DecidableEq, Repr

/-- The value of a digit character. -/
def digitOf (c : Char) : Option Nat := if '0' ≤ c ∧ c ≤ '9' then some (c.toNat - '0'.toNat) else none

/-- Duration letters (43 R205). -/
def durationOf : Char → Option Nat
  | 'W' => some 64
  | 'H' => some 32
  | 'Q' => some 16
  | 'I' => some 8
  | 'S' => some 4
  | _ => none

/-- The chromatic index of a note letter (43 R208). -/
def noteIndex : Char → Option Nat
  | 'C' => some 0
  | 'D' => some 2
  | 'E' => some 4
  | 'F' => some 5
  | 'G' => some 7
  | 'A' => some 9
  | 'B' => some 11
  | _ => none

/-- The letters that take a `#` (43 R208, R209). -/
def hasSharp (c : Char) : Bool := ['C', 'D', 'F', 'G', 'A'].contains c

/-- The tokens that a letter and a digit make (43 R203, R204, R206). -/
def digitToken : Char → Nat → Option Token
  | 'V', n => some (.voice n)
  | 'O', n => some (.octave n)
  | 'U', n => some (.setVol n)
  | _, _ => none

/-- Scans at most `fuel` tokens from left to right; it ends at the first character that starts no token. The trailing
space the spec appends is a separator and adds no token (43 R202 to R209, R212). -/
def scanFrom : Nat → List Char → List Token
  | 0, _ => []
  | _ + 1, [] => []
  | fuel + 1, c :: rest =>
    if c = ' ' ∨ c = ',' then scanFrom fuel rest else
    match durationOf c, noteIndex c, rest with
    | some ticks, _, _ => .duration ticks :: scanFrom fuel rest
    | none, some i, '#' :: after =>
      if hasSharp c then .note (i + 1) :: scanFrom fuel after else [.note i, .unknown]
    | none, some i, _ => .note i :: scanFrom fuel rest
    | none, none, d :: after =>
      match (digitOf d).bind (digitToken c) with
      | some t => t :: scanFrom fuel after
      | none => [.unknown]
    | none, none, [] => [.unknown]

/-- The tokens of a whole script: every token takes a character at least. -/
def scan (script : List Char) : List Token := scanFrom script.length script

/-- `floor(2^(i/12) * 10^15)` for the twelve steps of the scale (log 13). -/
def semitone : Nat → Nat
  | 0 => 1000000000000000
  | 1 => 1059463094359295
  | 2 => 1122462048309372
  | 3 => 1189207115002721
  | 4 => 1259921049894873
  | 5 => 1334839854170034
  | 6 => 1414213562373095
  | 7 => 1498307076876681
  | 8 => 1587401051968199
  | 9 => 1681792830507429
  | 10 => 1781797436280678
  | _ => 1887748625363386

/-- `16.35 * 2^((octave*12 + index)/12)` with 2^(index/12) cut to 15 decimals (43 R208; log 13). -/
def noteFrequency (octave index : Nat) : Rat :=
  mkRat (327 * 2 ^ octave * semitone index : Nat) (20 * 10 ^ 15)

/-- One note: tone, volume 9, the hold, volume 0, the gap (43 R208). -/
def noteActions (voice octave ticks index : Nat) : List HostAction :=
  [.issue (.setTone voice (noteFrequency octave index)), .issue (.setVolume voice 9), .hold (mkRat (2 * ticks) 60),
   .issue (.setVolume voice 0), .hold (mkRat 1 60)]

/-- Plays tokens against the defaults (43 R203 to R210, R212). -/
def playTokens : Defaults → List Token → List HostAction × ScriptEnd
  | _, [] => ([.issue (.setVolume 0 0)], .done)
  | d, .voice n :: ts => playTokens { d with voice := some n } ts
  | d, .octave n :: ts => playTokens { d with octave := some n } ts
  | d, .duration n :: ts => playTokens { d with duration := some n } ts
  | d, .setVol n :: ts =>
    match d.voice with
    | some v =>
      if volumeInDomain v n then
        let rest := playTokens d ts
        (.issue (.setVolume v n) :: rest.1, rest.2)
      else ([.issue (.setVolume v n)], .encodingError)
    | none => ([], .unsetDefault)
  | d, .note i :: ts =>
    match d.voice, d.octave, d.duration with
    | some v, some o, some t =>
      if toneInDomain v (noteFrequency o i) then
        let rest := playTokens d ts
        (noteActions v o t i ++ rest.1, rest.2)
      else ([.issue (.setTone v (noteFrequency o i))], .encodingError)
    | _, _, _ => ([], .unsetDefault)
  | _, .unknown :: _ => ([], .unknownToken)

/-- `NoteSequencer.play(script)` (43 R200). -/
def play (script : String) : List HostAction × ScriptEnd := playTokens ⟨none, none, none⟩ (scan script.toList)

/-- The operations among the actions, in order. -/
def requestsOf (actions : List HostAction) : List HostOp :=
  actions.filterMap fun a => match a with
    | .issue op => some op
    | .hold _ => none

/-- The host has decided to play a script next: its operations are the requests that follow those waiting (43 R200,
R213). -/
def State.withScript (script : String) (s : State) : State :=
  s.hostRequests (requestsOf (play script).1)

end Sys2Proof.Machine
end

