-- ==== Sys2Proof/Safety.lean ====
section
/-! DEFINITION. What claims about runs are stated in: the invariant of the block, the premise that a loop has a wait,
and the account of ticks owed and spent. -/

namespace Sys2Proof.Machine

/-- The answer the sink will give to the k-th `SinkWrite` from now (20_memory R53; log 4). -/
def answerAt (s : State) (k : Nat) : SinkAnswer :=
  match s.sinkAnswers[k]? with
  | some a => a
  | none => Config.sinkAnswer (s.sinkCalls + k)

/-- The sink accepts the next n bytes. -/
def sinkTakes (n : Nat) (s : State) : Prop := ∀ k, k < n → answerAt s k = .ok

/-- The state once the sink has answered n times. -/
def answered (n : Nat) (s : State) : State :=
  { s with sinkAnswers := s.sinkAnswers.drop n, sinkCalls := s.sinkCalls + n }

/-- The state once the sink has accepted these bytes in order and answered nothing else. -/
def wroteAll (bytes : List Byte) (s : State) : State :=
  { answered bytes.length s with sinkTrace := s.sinkTrace ++ bytes }

/-- The state once the sink has accepted these bytes and refused the one after them. -/
def wroteUntilRefusal (bytes : List Byte) (s : State) : State :=
  { answered (bytes.length + 1) s with sinkTrace := s.sinkTrace ++ bytes }

/-- Every loop offset a header can give: none, or `loop_raw - 0x24` for loop_raw in 1 to 2^32 - 1 (10_state R22). -/
def loopOffsetFromHeader (offset : Option Int) : Prop := ∀ l, offset = some l → -35 ≤ l ∧ l ≤ 2 ^ 32 - 37

/-- The invariant of 10_state R40 (a), (b), (d) and what holds inside a tick besides (41_playback R141, R157, R158). -/
structure Inv (s : State) : Prop where
  /-- R40 (a). -/
  cursor_le : s.cursor ≤ s.N
  /-- R40 (b). -/
  not_both : ¬ (s.fault ≠ none ∧ s.ended = true)
  /-- R40 (d), R157. -/
  pending_le : s.pendingTicks ≤ 88
  /-- A tick that interprets left the decrement behind (R141) and passed the entry checks (R140). -/
  running : s.phase = .run → s.pendingTicks ≤ -1 ∧ s.fault = none ∧ s.ended = false
  /-- R158, and R160 (f) for a fault. -/
  stopped : s.ended = true ∨ s.fault ≠ none → s.pendingTicks ≤ -1
  /-- R22. -/
  loop_range : loopOffsetFromHeader s.loopOffset
  /-- R271: nothing runs before the power-on emission. -/
  boot_idle : s.bootPending = true → s.phase = .idle

/-- Walks the commands from an index, at most `fuel` of them: true when a wait or a fault comes before the next END
(70_reset_and_hazards R284). -/
def pausesBeforeEnd (stream : List Byte) : Nat → Nat → Bool
  | 0, _ => false
  | fuel + 1, i =>
    match decode (stream.drop i) with
    | .error _ => true
    | .ok (.write _) => pausesBeforeEnd stream fuel (i + 2)
    | .ok .endMark => false
    | .ok _ => true

/-- `LoopHasWait(track)`: no loop, or the commands from the loop offset to the END that jumps back include a wait or
raise a fault (70_reset_and_hazards R284). An offset out of range faults at END (41_playback R149). -/
def loopHasWait (s : State) : Bool :=
  match s.loopOffset with
  | none => true
  | some l => if 0 ≤ l ∧ l < s.N then pausesBeforeEnd s.commandStream (s.N + 1) l.toNat else true

/-- The instruction the next step runs, if it runs one. -/
def nextInstr (s : State) : Option Instr :=
  if s.bootPending then none else
  match s.phase with
  | .run => (fetch s).toOption
  | .idle => s.inbox.head?.map HostOp.toInstr

/-- A tick in progress and each request waiting are still to be answered. -/
def unanswered (s : State) : Nat := s.inbox.length + (if s.phase = .run then 1 else 0)

/-- The account of 10_state R40 (c): ticks the waits retired since the last successful LOAD have asked for, and TICKs
since then that passed the entry checks. -/
structure Account where
  owed : Int
  spent : Nat
deriving DecidableEq, Repr

/-- The account after the next step, read off the state before it and the instruction it runs (10_state R40,
41_playback R153). -/
def Account.advance (a : Account) (s : State) : Account :=
  match nextInstr s with
  | some (.wait n) => { a with owed := a.owed + waitTicks n }
  | some .wait1 => { a with owed := a.owed + 1 }
  | some .tick => if (tickVerdict s).isNone then { a with spent := a.spent + 1 } else a
  | some (.load file) => if (parseVgm file).toOption.isSome then ⟨0, 0⟩ else a
  | _ => a

/-- The identity of 10_state R40 (c) and 41_playback R153. -/
def Account.balanced (a : Account) (s : State) : Prop :=
  s.fault = none → s.ended = false → s.pendingTicks = a.owed - a.spent

end Sys2Proof.Machine
end

