-- ==== Sys2Proof/Certificates/Slice0/Obligations.lean ====
section
/-! DEFINITION. The statements for the provers. A conclusion `exec i s = .next { s with ... }` gives the instruction's
result and its frame at once: every field not named is unchanged. -/

open Sys2Proof Sys2Proof.Machine

/-! ### Encodings -/

/-- 30_encoding R82, R85, R90, R91, R93, R94, R102: words written out from the spec's encodings. -/
def Obligations.SpecWordsDecodeToTheirRows : Prop :=
  decode [0x50, 0x9F, 0x66] = .ok (.write 0x9F) ∧
  decode [0x61, 0xDF, 0x02, 0x66] = .ok (.wait 735) ∧
  decode [0x62, 0x66] = .ok .wait1 ∧
  decode [0x66] = .ok .endMark ∧
  decode [0x4F, 0x00] = .ok (.illegal 0x4F) ∧
  chipForms 0x8E = [.toneLatch 0 14] ∧
  chipForms 0x0F = [.toneData 15] ∧
  chipForms 0xDF = [.volume 2 15] ∧
  chipForms 0xF7 = [.volume 3 7, .noise 1 3]

/-- 30_encoding R80, R81, R83: every well-formed stream command, with every operand, decodes from its own bytes whatever
follows them. -/
def Obligations.DecodeInvertsEncodeOnStreamCommands : Prop :=
  ∀ (i : Instr) (rest : List Byte), i.wf = true → i.isStream = true → decode (encode i ++ rest) = .ok i

/-- 30_encoding R80, R86: what is decoded is a well-formed stream command whose bytes stand at the front. -/
def Obligations.DecodedCommandIsAPrefixOfTheBytes : Prop :=
  ∀ (bytes : List Byte) (i : Instr), decode bytes = .ok i → i.wf = true ∧ i.isStream = true ∧ encode i <+: bytes

/-- 30_encoding R87, 41_playback R143, R144: decoding fails on the truncated commands and on nothing else, and names the
first byte that is not there. -/
def Obligations.DecodeFailsExactlyOnTruncatedCommands : Prop :=
  ∀ (bytes : List Byte) (e : DecodeError), decode bytes = .error e ↔
    (bytes = [] ∧ e = .noOpcode) ∨
    ((bytes = [0x50] ∨ bytes = [0x61]) ∧ e = .missingOperand 1) ∨
    ((∃ lo, bytes = [0x61, lo]) ∧ e = .missingOperand 2)

/-- 30_encoding R89 to R95: the forms a chip byte is read as are exactly the well-formed chip forms that encode to it. -/
def Obligations.ChipFormsAreTheEncodedBytes : Prop :=
  ∀ (i : Instr) (b : Byte), i ∈ chipForms b ↔ i.isChip = true ∧ i.wf = true ∧ encode i = [b]

/-! ### The step -/

/-- 41_playback R142: inside a tick a step runs the command whose bytes stand at the cursor; it is well formed. -/
def Obligations.StepRunsTheCommandAtTheCursor : Prop :=
  ∀ (s : State) (i : Instr), s.bootPending = false → s.phase = .run →
    decode (s.commandStream.drop s.cursor) = .ok i → step s = exec i s

/-- 10_state R30, 30_encoding R100: outside a tick a step accepts the next request and runs it; with none the block stays
as it is (the model's choice, log 3). -/
def Obligations.StepAcceptsTheNextRequest : Prop :=
  ∀ (s : State), s.accepting = true →
    (∀ (op : HostOp) (rest : List HostOp), s.inbox = op :: rest → step s = exec op.toInstr { s with inbox := rest }) ∧
    (s.inbox = [] → step s = .next s)

/-- 60_exceptions R240: "the block itself keeps working (it accepts the next operation)": no step stops the machine. -/
def Obligations.EveryStepAnswersNext : Prop :=
  ∀ (s : State), ∃ t, step s = .next t

/-- 70_reset_and_hazards R271, 10_state R36: the power-on emission writes the reset sequence up to the first byte the
sink refuses, and then operations are accepted; nothing is reported or latched. As a first step of the machine it is
the model's reading (log 5). -/
def Obligations.PowerOnEmitsTheResetSequence : Prop :=
  ∀ (s : State), s.bootPending = true →
    (sinkTakes 4 s → step s = .next { wroteAll [0x9F, 0xBF, 0xDF, 0xFF] s with bootPending := false }) ∧
    (∀ k, k < 4 → sinkTakes k s → answerAt s k = .ioError →
      step s = .next { wroteUntilRefusal ([0x9F, 0xBF, 0xDF, 0xFF].take k) s with bootPending := false })

/-- 41_playback R142: "Between the steps of one tick no host operation is accepted." -/
def Obligations.NoRequestIsAcceptedDuringATick : Prop :=
  ∀ (s t : State), s.phase = .run → step s = .next t → t.inbox = s.inbox

/-- 30_encoding R100, D27 and 41_playback R146: no transition exists for a host operation while a tick runs or before
the power-on emission, nor for a stream command outside a tick; there the meanings stop (the model's form of it, log 7). -/
def Obligations.MeaningsStopWhereNotAccepted : Prop :=
  ∀ (i : Instr) (s : State),
    (i.isHost = true → s.accepting = false → exec i s = .fault .operationNotAccepted) ∧
    (i.isStream = true → s.phase = .idle → exec i s = .fault .noTickInProgress)

/-! ### Stream commands -/

/-- 41_playback R145, 30_encoding R84: WRITE, `50 dd`, emits its byte as it stands, moves past itself and leaves the tick
running; a byte the sink refuses leaves the command unretired, `SinkIoError` latched and answered; a missing operand byte
raises `TruncatedStreamError(N)`. -/
def Obligations.WriteEmitsItsByte : Prop :=
  ∀ (dd : Byte) (s : State), s.phase = .run →
    (∀ rest, decode (0x50 :: dd :: rest) = .ok (.write dd)) ∧
    (sinkTakes 1 s → exec (.write dd) s = .next { s with
      sinkTrace := s.sinkTrace ++ [dd], cursor := s.cursor + 2,
      sinkAnswers := s.sinkAnswers.drop 1, sinkCalls := s.sinkCalls + 1 }) ∧
    (answerAt s 0 = .ioError → exec (.write dd) s = .next { s with
      fault := some .sinkIo, phase := .idle, responses := s.responses ++ [.fault (.playback .sinkIo)],
      sinkAnswers := s.sinkAnswers.drop 1, sinkCalls := s.sinkCalls + 1 }) ∧
    (s.bootPending = false → readByte s s.cursor = some 0x50 → s.N ≤ s.cursor + 1 → step s = .next { s with
      fault := some (.truncatedStream s.N), phase := .idle,
      responses := s.responses ++ [.fault (.playback (.truncatedStream s.N))] })

/-- 41_playback R147: WAIT, `61 lo hi`, adds floor(n / 735), 0 to 89, moves past itself and ends the tick ok; a missing
operand byte raises `TruncatedStreamError(N)`. -/
def Obligations.WaitAddsWholeTicks : Prop :=
  ∀ (lo hi : Byte) (s : State), s.phase = .run →
    exec (.wait (u16 lo hi)) s = .next { s with
      pendingTicks := s.pendingTicks + ((lo.toNat + 256 * hi.toNat) / 735 : Nat), cursor := s.cursor + 3,
      phase := .idle, responses := s.responses ++ [.ok] } ∧
    (lo.toNat + 256 * hi.toNat) / 735 ≤ 89 ∧
    (∀ rest, decode (0x61 :: lo :: hi :: rest) = .ok (.wait (u16 lo hi))) ∧
    (s.bootPending = false → readByte s s.cursor = some 0x61 → s.N ≤ s.cursor + 2 → step s = .next { s with
      fault := some (.truncatedStream s.N), phase := .idle,
      responses := s.responses ++ [.fault (.playback (.truncatedStream s.N))] })

/-- 41_playback R148: WAIT1, `62`, adds one tick, moves past itself and ends the tick ok; on the counter and the phase it
is WAIT 735. -/
def Obligations.WaitOneAddsOneTick : Prop :=
  ∀ (s : State), s.phase = .run →
    exec .wait1 s = .next { s with
      pendingTicks := s.pendingTicks + 1, cursor := s.cursor + 1, phase := .idle, responses := s.responses ++ [.ok] } ∧
    (∃ t u, exec .wait1 s = .next t ∧ exec (.wait 735) s = .next u ∧ u = { t with cursor := t.cursor + 2 }) ∧
    (∀ rest, decode (0x62 :: rest) = .ok .wait1)

/-- 41_playback R149, 60_exceptions R237 (c): END with a loop offset below N jumps there inside the same tick; with one
outside [0, N) it raises `TruncatedStreamError(L)` and keeps the cursor; with none it sets `ended`, moves past itself and
ends the tick ok. -/
def Obligations.EndJumpsEndsOrFaultsByTheLoopOffset : Prop :=
  ∀ (s : State), s.phase = .run →
    (∀ l : Nat, s.loopOffset = some (l : Int) → l < s.N → exec .endMark s = .next { s with cursor := l }) ∧
    (∀ l : Int, s.loopOffset = some l → (l < 0 ∨ (s.N : Int) ≤ l) →
      exec .endMark s = .next { s with
        fault := some (.truncatedStream l), phase := .idle,
        responses := s.responses ++ [.fault (.playback (.truncatedStream l))] }) ∧
    (s.loopOffset = none →
      exec .endMark s = .next { s with
        cursor := s.cursor + 1, ended := true, phase := .idle, responses := s.responses ++ [.ok] })

/-- 41_playback R150, 60_exceptions R236: every opcode byte but the four raises `UnknownCommandError(cursor, byte)`; the
cursor stays and no byte is emitted. -/
def Obligations.IllegalOpcodeRaisesUnknownCommand : Prop :=
  ∀ (op : Byte) (s : State), s.phase = .run →
    exec (.illegal op) s = .next { s with
      fault := some (.unknownCommand s.cursor op), phase := .idle,
      responses := s.responses ++ [.fault (.playback (.unknownCommand s.cursor op))] } ∧
    (s.bootPending = false → readByte s s.cursor = some op → op ≠ 0x50 → op ≠ 0x61 → op ≠ 0x62 → op ≠ 0x66 →
      step s = exec (.illegal op) s)

/-- 41_playback R143: a fetch at or past N raises `TruncatedStreamError(cursor)`. -/
def Obligations.FetchPastTheEndRaisesTruncatedStream : Prop :=
  ∀ (s : State), s.bootPending = false → s.phase = .run → s.N ≤ s.cursor →
    step s = .next { s with
      fault := some (.truncatedStream s.cursor), phase := .idle,
      responses := s.responses ++ [.fault (.playback (.truncatedStream s.cursor))] }

/-- 41_playback R144: a WRITE or WAIT whose operand would lie at or past N raises `TruncatedStreamError(N)` and has no
effect; an illegal opcode at the last index raises `UnknownCommandError` instead. -/
def Obligations.MissingOperandRaisesTruncatedStreamAtN : Prop :=
  ∀ (s : State), s.bootPending = false → s.phase = .run →
    ((readByte s s.cursor = some 0x50 ∧ s.N ≤ s.cursor + 1 ∨ readByte s s.cursor = some 0x61 ∧ s.N ≤ s.cursor + 2) →
      step s = .next { s with
        fault := some (.truncatedStream s.N), phase := .idle,
        responses := s.responses ++ [.fault (.playback (.truncatedStream s.N))] }) ∧
    (∀ op : Byte, readByte s s.cursor = some op → s.N = s.cursor + 1 → (Instr.illegal op).wf = true →
      step s = .next { s with
        fault := some (.unknownCommand s.cursor op), phase := .idle,
        responses := s.responses ++ [.fault (.playback (.unknownCommand s.cursor op))] })

/-- 41_playback R145 to R150, 10_state R23: what a stream command leaves unchanged when it runs. WRITE alone writes the
sink, the waits alone the counter, END alone `ended`; every byte of the stream reads as before. -/
def Obligations.StreamCommandsFrame : Prop :=
  ∀ (i : Instr) (s t : State), i.isStream = true → exec i s = .next t →
    t.commandStream = s.commandStream ∧ t.loopOffset = s.loopOffset ∧ (∀ a, readByte t a = readByte s a) ∧
    t.inbox = s.inbox ∧ t.bootPending = s.bootPending ∧
    (i ≠ .endMark → t.ended = s.ended) ∧
    ((∀ n, i ≠ .wait n) → i ≠ .wait1 → t.pendingTicks = s.pendingTicks) ∧
    ((∀ dd, i ≠ .write dd) →
      t.sinkTrace = s.sinkTrace ∧ t.sinkAnswers = s.sinkAnswers ∧ t.sinkCalls = s.sinkCalls) ∧
    ((∃ n, i = .wait n) ∨ i = .wait1 → t.fault = s.fault)

/-! ### Host operations -/

/-- 41_playback R140: the entry checks in order: a latched fault is answered again and nothing else changes; else after
the end `EndOfSongError` is answered and nothing else changes; else the counter is decremented. -/
def Obligations.TickRepeatsFaultThenEnd : Prop :=
  ∀ (s : State), s.accepting = true →
    (∀ f, s.fault = some f →
      exec .tick s = .next { s with responses := s.responses ++ [.fault (.playback f)] }) ∧
    (s.fault = none → s.ended = true →
      exec .tick s = .next { s with responses := s.responses ++ [.fault .endOfSong] }) ∧
    (s.fault = none → s.ended = false →
      ∃ t, exec .tick s = .next t ∧ t.pendingTicks = s.pendingTicks - 1)

/-- 41_playback R141: a TICK that passed the entry checks decrements the counter whatever its value; if it was above zero
the answer is ok and nothing else changes, else interpretation starts. -/
def Obligations.TickDecrementsThenIdlesOrInterprets : Prop :=
  ∀ (s : State), s.accepting = true → s.fault = none → s.ended = false →
    (0 < s.pendingTicks → exec .tick s = .next { s with
      pendingTicks := s.pendingTicks - 1, responses := s.responses ++ [.ok] }) ∧
    (s.pendingTicks ≤ 0 → exec .tick s = .next { s with pendingTicks := s.pendingTicks - 1, phase := .run })

/-- 42_register_encoder R181, 20_memory R53: RESET emits the four bytes in order and then clears the cursor and nothing
else, whatever the state; stopped at a byte the sink refuses it keeps the cursor and latches nothing. -/
def Obligations.ResetEmitsTheSequenceAndClearsTheCursor : Prop :=
  ∀ (s : State), s.accepting = true →
    (sinkTakes 4 s → exec .reset s = .next { s with
      sinkTrace := s.sinkTrace ++ [0x9F, 0xBF, 0xDF, 0xFF], cursor := 0, responses := s.responses ++ [.ok],
      sinkAnswers := s.sinkAnswers.drop 4, sinkCalls := s.sinkCalls + 4 }) ∧
    (∀ k, k < 4 → sinkTakes k s → answerAt s k = .ioError → exec .reset s = .next { s with
      sinkTrace := s.sinkTrace ++ [0x9F, 0xBF, 0xDF, 0xFF].take k,
      responses := s.responses ++ [.fault (.playback .sinkIo)],
      sinkAnswers := s.sinkAnswers.drop (k + 1), sinkCalls := s.sinkCalls + (k + 1) })

/-- 40_loader R121 to R128: a file that passes the five steps is committed: the stream is the bytes [0x40, eof + 4), the
loop offset is none for a zero word and loop_raw - 0x24 otherwise, the engine is Ready, the answer is ok. -/
def Obligations.LoadCommitsAValidFile : Prop :=
  ∀ (file : List Byte) (eof loopRaw : Word32) (s : State), s.accepting = true →
    file.take 4 = [0x56, 0x67, 0x6D, 0x20] → u32le file 8 = some 0x00000150 → u32le file 12 = some 3579545 →
    u32le file 4 = some eof → eof.toNat + 4 ≤ file.length → u32le file 0x1C = some loopRaw →
    exec (.load file) s = .next { s with
      commandStream := (file.take (eof.toNat + 4)).drop 0x40,
      loopOffset := if loopRaw = 0 then none else some ((loopRaw.toNat : Int) - 0x24),
      cursor := 0, pendingTicks := 0, ended := false, fault := none, responses := s.responses ++ [.ok] }

/-- 40_loader R121, 60_exceptions R231: "Loading a byte sequence whose first 4 bytes are not "Vgm " always yields
InvalidHeader, regardless of remaining content", a file of fewer than four bytes too. -/
def Obligations.BadTagIsAlwaysInvalidHeader : Prop :=
  ∀ (file : List Byte) (s : State), s.accepting = true → ¬ [0x56, 0x67, 0x6D, 0x20] <+: file →
    exec (.load file) s = .next { s with responses := s.responses ++ [.fault .invalidHeader] }

/-- 40_loader R130, 60_exceptions R231 to R234: tag, version, clock, length and loop word are judged in that order, and
the first that fails is the fault; nothing else changes. -/
def Obligations.LoadReportsTheFirstViolation : Prop :=
  ∀ (file : List Byte) (s : State), s.accepting = true →
    let answer := fun (f : BlockFault) =>
      exec (.load file) s = .next { s with responses := s.responses ++ [.fault f] }
    (¬ [0x56, 0x67, 0x6D, 0x20] <+: file → answer .invalidHeader) ∧
    ([0x56, 0x67, 0x6D, 0x20] <+: file →
      (file.length < 12 → answer .truncatedFile) ∧
      (∀ v, u32le file 8 = some v → v ≠ 0x00000150 → answer (.unsupportedVersion v)) ∧
      (u32le file 8 = some 0x00000150 →
        (file.length < 16 → answer .truncatedFile) ∧
        (∀ c, u32le file 12 = some c → c ≠ 3579545 → answer (.unsupportedClock c)) ∧
        (u32le file 12 = some 3579545 →
          (∀ eof, u32le file 4 = some eof → file.length < eof.toNat + 4 → answer .truncatedFile) ∧
          (∀ eof, u32le file 4 = some eof → eof.toNat + 4 ≤ file.length → file.length < 0x20 →
            answer .truncatedFile))))

/-- 40_loader R132, 10_state R37: a LOAD either commits a track or changes nothing but the response; either way it makes
no sink write. -/
def Obligations.LoadCommitsOrChangesNothing : Prop :=
  ∀ (file : List Byte) (s : State), s.accepting = true → ∃ t, exec (.load file) s = .next t ∧
    t.sinkTrace = s.sinkTrace ∧ t.sinkAnswers = s.sinkAnswers ∧
    ((t.responses = s.responses ++ [.ok] ∧ t.cursor = 0 ∧ t.pendingTicks = 0 ∧ t.ended = false ∧ t.fault = none) ∨
      ∃ f, t = { s with responses := s.responses ++ [.fault f] } ∧ f.latched = none)

/-- 40_loader R125, 20_memory R51: an accepted stream has length max(0, eof + 4 - 0x40) and CS[i] = FILE[0x40 + i]. -/
def Obligations.LoadedStreamIsTheFileSlice : Prop :=
  ∀ (file : List Byte) (eof : Word32) (track : Track), parseVgm file = .ok track → u32le file 4 = some eof →
    track.commandStream.length = eof.toNat + 4 - 0x40 ∧
    ∀ i, i < track.commandStream.length → track.commandStream[i]? = file[0x40 + i]?

/-- 40_loader R127: bytes 0x10 to 0x1B and 0x20 to 0x3F of a file have no effect on a LOAD, whatever they hold. -/
def Obligations.LoadIgnoresUninterpretedHeaderBytes : Prop :=
  ∀ (f g : List Byte) (s : State), f.length = g.length →
    (∀ i, ¬ (0x10 ≤ i ∧ i < 0x1C) → ¬ (0x20 ≤ i ∧ i < 0x40) → f[i]? = g[i]?) →
    exec (.load f) s = exec (.load g) s

/-- 40_loader R124: "A file longer than eof_offset + 4 is accepted; the trailing bytes are ignored." -/
def Obligations.LoadIgnoresTrailingBytes : Prop :=
  ∀ (file trailing : List Byte) (track : Track), parseVgm file = .ok track →
    parseVgm (file ++ trailing) = .ok track

/-- 20_memory R58, 00_scope R14: a header word is its four bytes, and the WAIT operand its two, least significant first;
a header word is there exactly when its last byte is. -/
def Obligations.HeaderWordsAreLittleEndian : Prop :=
  ∀ (file : List Byte) (o : Nat),
    (file.length < o + 4 ↔ u32le file o = none) ∧
    ∀ (b0 b1 b2 b3 : Byte), file[o]? = some b0 → file[o + 1]? = some b1 → file[o + 2]? = some b2 →
      file[o + 3]? = some b3 → ∃ w, u32le file o = some w ∧
        w.toNat = b0.toNat + 256 * b1.toNat + 65536 * b2.toNat + 16777216 * b3.toNat ∧
        ∀ rest, ∃ n, decode (0x61 :: b0 :: b1 :: rest) = .ok (.wait n) ∧ n.toNat = b0.toNat + 256 * b1.toNat

/-- 42_register_encoder R172: the register value is the floor of the exact quotient, an integer computation on the
frequency in lowest terms, with its break points. -/
def Obligations.ToneFormulaIsTheExactFloor : Prop :=
  ∀ (f : Rat), 0 < f →
    (toneQuotient f : Int) = ⌊(3579545 : Rat) / (f * 32)⌋ ∧
    toneQuotient f = 3579545 * f.den / (32 * f.num.toNat) ∧
    (toneQuotient f = 0 ↔ (3579545 : Rat) / 32 < f) ∧
    ∀ k : Nat, 1 ≤ k →
      (toneQuotient f = k ↔ (3579545 : Rat) / (32 * (k + 1)) < f ∧ f ≤ (3579545 : Rat) / (32 * k))

/-- 42_register_encoder R173: the ceiling, and the frequencies at which it acts; there is no floor. -/
def Obligations.ToneCeilingActsBelowItsBreakPoint : Prop :=
  ∀ (f : Rat), 0 < f →
    toneReg f = min (toneQuotient f) 1021 ∧
    (toneReg f ≠ toneQuotient f ↔ f ≤ (3579545 : Rat) / (32 * 1022)) ∧
    (f ≤ (3579545 : Rat) / (32 * 1022) → toneReg f = 1021)

/-- 42_register_encoder R171 to R174, 20_memory R53: SET_TONE emits the latch byte and then the data byte of the clamped
register value and answers ok; an operand outside its domain is answered before any byte; at a refused byte it stops with
nothing latched. -/
def Obligations.SetToneEmitsLatchThenData : Prop :=
  ∀ (channel : Int) (f : Rat) (s : State), s.accepting = true →
    (¬ (0 ≤ channel ∧ channel ≤ 2 ∧ 0 < f) →
      exec (.setTone channel f) s = .next { s with responses := s.responses ++ [.fault .outOfRangeParameter] }) ∧
    (0 ≤ channel → channel ≤ 2 → 0 < f → ∀ reg : Nat, (reg : Int) = min ⌊(3579545 : Rat) / (f * 32)⌋ 1021 →
      let latch : Byte := 0x80#8 ||| (BitVec.ofInt 8 channel <<< 5) ||| BitVec.ofNat 8 (reg &&& 0xF)
      let data : Byte := BitVec.ofNat 8 (reg >>> 4)
      (sinkTakes 2 s → exec (.setTone channel f) s = .next { s with
        sinkTrace := s.sinkTrace ++ [latch, data], responses := s.responses ++ [.ok],
        sinkAnswers := s.sinkAnswers.drop 2, sinkCalls := s.sinkCalls + 2 }) ∧
      (answerAt s 0 = .ioError → exec (.setTone channel f) s = .next { s with
        responses := s.responses ++ [.fault (.playback .sinkIo)],
        sinkAnswers := s.sinkAnswers.drop 1, sinkCalls := s.sinkCalls + 1 }) ∧
      (answerAt s 0 = .ok → answerAt s 1 = .ioError → exec (.setTone channel f) s = .next { s with
        sinkTrace := s.sinkTrace ++ [latch], responses := s.responses ++ [.fault (.playback .sinkIo)],
        sinkAnswers := s.sinkAnswers.drop 2, sinkCalls := s.sinkCalls + 2 }))

/-- 30_encoding R92, R97, 42_register_encoder R173: the two bytes of a SET_TONE carry a value of at most 1021 in
`16 * data[5:0] + latch[3:0]`, the latch byte's other bits are 1, the channel, 0, and the data byte's are 0. -/
def Obligations.SetToneNeverEmitsReservedValues : Prop :=
  ∀ (channel : Int) (f : Rat), 0 ≤ channel → channel ≤ 2 → 0 < f →
    ∃ latch data : Byte, toneFrame channel (toneReg f) = [latch, data] ∧
      latch.extractLsb' 7 1 = 1 ∧ ((latch.extractLsb' 5 2).toNat : Int) = channel ∧ latch.extractLsb' 4 1 = 0 ∧
      data.extractLsb' 6 2 = 0 ∧
      16 * (data.extractLsb' 0 6).toNat + (latch.extractLsb' 0 4).toNat = toneReg f ∧ toneReg f ≤ 1021

/-- 42_register_encoder R176, 20_memory R53: SET_VOLUME emits the one byte with the attenuation 15 - volume and answers ok; an
operand outside its domain is answered before any byte; at a refused byte it stops with nothing latched. -/
def Obligations.SetVolumeEmitsTheInvertedVolume : Prop :=
  ∀ (channel volume : Int) (s : State), s.accepting = true →
    (¬ (0 ≤ channel ∧ channel ≤ 3 ∧ 0 ≤ volume ∧ volume ≤ 15) →
      exec (.setVolume channel volume) s = .next { s with responses := s.responses ++ [.fault .outOfRangeParameter] }) ∧
    (0 ≤ channel → channel ≤ 3 → 0 ≤ volume → volume ≤ 15 →
      (sinkTakes 1 s → exec (.setVolume channel volume) s = .next { s with
        sinkTrace := s.sinkTrace ++ [0x90#8 ||| (BitVec.ofInt 8 channel <<< 5) ||| BitVec.ofInt 8 (15 - volume)],
        responses := s.responses ++ [.ok],
        sinkAnswers := s.sinkAnswers.drop 1, sinkCalls := s.sinkCalls + 1 }) ∧
      (answerAt s 0 = .ioError → exec (.setVolume channel volume) s = .next { s with
        responses := s.responses ++ [.fault (.playback .sinkIo)],
        sinkAnswers := s.sinkAnswers.drop 1, sinkCalls := s.sinkCalls + 1 }))

/-- 42_register_encoder R178, 20_memory R53: SET_NOISE emits the one byte over NOISE_BASE and answers ok; an operand outside
its domain is answered before any byte; at a refused byte it stops with nothing latched. -/
def Obligations.SetNoiseEmitsOverNoiseBase : Prop :=
  ∀ (mode shiftRate : Int) (s : State), s.accepting = true →
    (¬ (0 ≤ mode ∧ mode ≤ 1 ∧ 0 ≤ shiftRate ∧ shiftRate ≤ 3) →
      exec (.setNoise mode shiftRate) s = .next { s with responses := s.responses ++ [.fault .outOfRangeParameter] }) ∧
    (0 ≤ mode → mode ≤ 1 → 0 ≤ shiftRate → shiftRate ≤ 3 →
      (sinkTakes 1 s → exec (.setNoise mode shiftRate) s = .next { s with
        sinkTrace := s.sinkTrace ++ [Config.noiseBase ||| (BitVec.ofInt 8 mode <<< 2) ||| BitVec.ofInt 8 shiftRate],
        responses := s.responses ++ [.ok],
        sinkAnswers := s.sinkAnswers.drop 1, sinkCalls := s.sinkCalls + 1 }) ∧
      (answerAt s 0 = .ioError → exec (.setNoise mode shiftRate) s = .next { s with
        responses := s.responses ++ [.fault (.playback .sinkIo)],
        sinkAnswers := s.sinkAnswers.drop 1, sinkCalls := s.sinkCalls + 1 }))

/-- 30_encoding R95, 70_reset_and_hazards R286: SET_NOISE(mode, rate) and SET_VOLUME(3, 15 - (4*mode + rate)) are the
same step in every state. -/
def Obligations.NoiseCollidesWithChannelThreeVolume : Prop :=
  ∀ (mode shiftRate : Int) (s : State), 0 ≤ mode → mode ≤ 1 → 0 ≤ shiftRate → shiftRate ≤ 3 →
    exec (.setNoise mode shiftRate) s = exec (.setVolume 3 (15 - (4 * mode + shiftRate))) s

/-- 42_register_encoder R182: what a SET operation or a RESET emits and answers depends on its operands and the sink's
answers alone, in whatever two states it is accepted; a SET operation writes no item of the block's state, and none of
the four latches a fault. -/
def Obligations.EncoderReadsNoStateOfTheBlock : Prop :=
  ∀ (i : Instr) (s t : State),
    (i = .reset ∨ (∃ c f, i = .setTone c f) ∨ (∃ c v, i = .setVolume c v) ∨ (∃ m r, i = .setNoise m r)) →
    s.accepting = true → t.accepting = true → s.sinkAnswers = t.sinkAnswers → s.sinkCalls = t.sinkCalls →
    ∃ s' t' bytes r, exec i s = .next s' ∧ exec i t = .next t' ∧
      s'.sinkTrace = s.sinkTrace ++ bytes ∧ t'.sinkTrace = t.sinkTrace ++ bytes ∧
      s'.responses = s.responses ++ [r] ∧ t'.responses = t.responses ++ [r] ∧
      s'.fault = s.fault ∧ s'.phase = .idle ∧
      (i ≠ .reset → s'.commandStream = s.commandStream ∧ s'.loopOffset = s.loopOffset ∧ s'.cursor = s.cursor ∧
        s'.pendingTicks = s.pendingTicks ∧ s'.ended = s.ended)

/-- 42_register_encoder R170, 30_encoding R90, R91, R93, R94: each chip form emits the byte of its bit layout and touches
no item of the block's state. That a chip form is a step of its own is the model's choice (log 1). -/
def Obligations.ChipFormsEmitTheirByte : Prop :=
  ∀ (s : State), sinkTakes 1 s →
    (∀ (c : BitVec 2) (r : BitVec 4),
      exec (.toneLatch c r) s = .next (wroteAll [(1#1 ++ c ++ 0#1 ++ r : BitVec 8)] s)) ∧
    (∀ r : BitVec 6, exec (.toneData r) s = .next (wroteAll [(0#2 ++ r : BitVec 8)] s)) ∧
    (∀ (c : BitVec 2) (a : BitVec 4),
      exec (.volume c a) s = .next (wroteAll [(1#1 ++ c ++ 1#1 ++ a : BitVec 8)] s)) ∧
    (∀ (m : BitVec 1) (r : BitVec 2),
      exec (.noise m r) s = .next (wroteAll [(0b11110#5 ++ m ++ r : BitVec 8)] s))

/-- 42_register_encoder R170, 20_memory R53: what a chip form leaves unchanged, and what it answers outside a tick when
the sink refuses its byte. That a chip form is a step of its own, and answers, is the model's choice (log 1). -/
def Obligations.ChipFormsFrame : Prop :=
  ∀ (i : Instr) (s : State), i.isChip = true →
    (∀ t, exec i s = .next t →
      t.commandStream = s.commandStream ∧ t.loopOffset = s.loopOffset ∧ (∀ a, readByte t a = readByte s a) ∧
      t.cursor = s.cursor ∧ t.pendingTicks = s.pendingTicks ∧ t.ended = s.ended ∧ t.inbox = s.inbox ∧
      t.bootPending = s.bootPending ∧ (sinkTakes 1 s ∨ s.phase = .idle → t.fault = s.fault ∧ t.phase = s.phase)) ∧
    (answerAt s 0 = .ioError → s.phase = .idle → exec i s = .next { s with
      responses := s.responses ++ [.fault (.playback .sinkIo)],
      sinkAnswers := s.sinkAnswers.drop 1, sinkCalls := s.sinkCalls + 1 })

/-- 42_register_encoder R170, R174, R176, R178: SET_TONE is its TONE_LATCH and then its TONE_DATA, SET_VOLUME its VOLUME,
SET_NOISE its NOISE, and then the answer ok. That a chip form is a step of its own, on which every clause rests, is the
model's choice (log 1). -/
def Obligations.SetOperationsAreTheirChipForms : Prop :=
  ∀ (s : State), s.accepting = true →
    (∀ (channel : Int) (f : Rat), 0 ≤ channel → channel ≤ 2 → 0 < f → sinkTakes 2 s →
      ∃ (c : BitVec 2) (lo : BitVec 4) (hi : BitVec 6) (s₁ s₂ : State), (c.toNat : Int) = channel ∧
        16 * hi.toNat + lo.toNat = toneReg f ∧ exec (.toneLatch c lo) s = .next s₁ ∧
        exec (.toneData hi) s₁ = .next s₂ ∧ exec (.setTone channel f) s = .next (respond .ok s₂)) ∧
    (∀ channel volume : Int, 0 ≤ channel → channel ≤ 3 → 0 ≤ volume → volume ≤ 15 → sinkTakes 1 s →
      ∃ (c : BitVec 2) (a : BitVec 4) (s₁ : State), (c.toNat : Int) = channel ∧ (a.toNat : Int) = 15 - volume ∧
        exec (.volume c a) s = .next s₁ ∧ exec (.setVolume channel volume) s = .next (respond .ok s₁)) ∧
    (∀ mode shiftRate : Int, 0 ≤ mode → mode ≤ 1 → 0 ≤ shiftRate → shiftRate ≤ 3 → sinkTakes 1 s →
      ∃ (m : BitVec 1) (r : BitVec 2) (s₁ : State), (m.toNat : Int) = mode ∧ (r.toNat : Int) = shiftRate ∧
        exec (.noise m r) s = .next s₁ ∧ exec (.setNoise mode shiftRate) s = .next (respond .ok s₁))

/-- 30_encoding R101: the bytes of a RESET are the bytes of SET_VOLUME(0,0), (1,0), (2,0), (3,0) in that order. -/
def Obligations.ResetIsFourSilences : Prop :=
  ∀ (s : State), s.accepting = true → sinkTakes 4 s →
    ∃ s₀ s₁ s₂ s₃ t, exec (.setVolume 0 0) s = .next s₀ ∧ exec (.setVolume 1 0) s₀ = .next s₁ ∧
      exec (.setVolume 2 0) s₁ = .next s₂ ∧ exec (.setVolume 3 0) s₂ = .next s₃ ∧ exec .reset s = .next t ∧
      t.sinkTrace = s₃.sinkTrace

/-- 42_register_encoder R181, R182, 41_playback R140, R141, 40_loader R120, R128: what a host operation leaves unchanged
when it runs. LOAD alone writes the track, the flag and the latch; LOAD and RESET alone the cursor; LOAD and TICK alone
the counter; only TICK starts a tick; LOAD and TICK write no byte. -/
def Obligations.HostOperationsFrame : Prop :=
  ∀ (i : Instr) (s t : State), i.isHost = true → exec i s = .next t →
    t.inbox = s.inbox ∧ t.bootPending = s.bootPending ∧
    ((∀ file, i ≠ .load file) →
      t.commandStream = s.commandStream ∧ t.loopOffset = s.loopOffset ∧ (∀ a, readByte t a = readByte s a) ∧
      t.ended = s.ended ∧ t.fault = s.fault ∧ (i ≠ .reset → t.cursor = s.cursor) ∧
      (i ≠ .tick → t.pendingTicks = s.pendingTicks)) ∧
    (i ≠ .tick → t.phase = s.phase) ∧
    ((∃ file, i = .load file) ∨ i = .tick →
      t.sinkTrace = s.sinkTrace ∧ t.sinkAnswers = s.sinkAnswers ∧ t.sinkCalls = s.sinkCalls)

/-! ### The whole machine -/

/-- 10_state R23: "immutable after load": no step writes the track but one that runs a LOAD. -/
def Obligations.TrackIsImmutableExceptByLoad : Prop :=
  ∀ (s t : State), step s = .next t → (∀ file, nextInstr s ≠ some (.load file)) →
    t.commandStream = s.commandStream ∧ t.loopOffset = s.loopOffset

/-- 10_state R27: while `ended` is true no step but a LOAD changes an item of the block's state, save that a RESET clears
the cursor. -/
def Obligations.EndedIsTerminal : Prop :=
  ∀ (s t : State), Inv s → s.ended = true → step s = .next t → (∀ file, nextInstr s ≠ some (.load file)) →
    t.commandStream = s.commandStream ∧ t.loopOffset = s.loopOffset ∧ t.pendingTicks = s.pendingTicks ∧
    t.ended = true ∧ t.fault = s.fault ∧ t.phase = .idle ∧
    (nextInstr s ≠ some .reset → t.cursor = s.cursor) ∧
    (nextInstr s = some .reset → sinkTakes 4 s → t.cursor = 0)

/-- 41_playback R154: with a loop offset in [0, N) no step but a LOAD changes that or sets `ended`; every END goes back to
the loop offset in the same tick and leaves the counter as it is. -/
def Obligations.LoopingTrackNeverEnds : Prop :=
  ∀ (s t : State) (l : Nat), s.loopOffset = some (l : Int) → l < s.N → s.ended = false → step s = .next t →
    (∀ file, nextInstr s ≠ some (.load file)) →
    t.ended = false ∧ t.loopOffset = some (l : Int) ∧ l < t.N ∧
    (nextInstr s = some .endMark →
      t.cursor = l ∧ t.phase = .run ∧ t.pendingTicks = s.pendingTicks ∧ t.responses = s.responses)

/-- 10_state R28, 60_exceptions R241, R246: once latched a fault stays until a LOAD, and every TICK answers it and changes
nothing. -/
def Obligations.LatchedFaultIsSticky : Prop :=
  ∀ (s t : State) (f : PlaybackFault), Inv s → s.fault = some f → step s = .next t →
    (∀ file, nextInstr s ≠ some (.load file)) →
    t.fault = some f ∧
    (nextInstr s = some .tick →
      t = { s with inbox := s.inbox.tail, responses := s.responses ++ [.fault (.playback f)] })

/-- 10_state R31, 20_memory R54: a step only appends to the sink trace, and at most four bytes; the bytes are no more than
the calls made. -/
def Obligations.SinkTraceOnlyGrows : Prop :=
  ∀ (s t : State), step s = .next t →
    ∃ bytes, t.sinkTrace = s.sinkTrace ++ bytes ∧ bytes.length ≤ 4 ∧ s.sinkCalls + bytes.length ≤ t.sinkCalls

/-- 30_encoding R100, 60_exceptions R240: every request is answered exactly once: over every step the responses given,
the requests waiting and the tick in progress keep their sum, and responses are only appended. -/
def Obligations.EveryRequestIsAnsweredOnce : Prop :=
  ∀ (s t : State), step s = .next t →
    t.responses.length + unanswered t = s.responses.length + unanswered s ∧ s.responses <+: t.responses

/-- 10_state R40 (a), (b), (d) at power-on. -/
def Obligations.InvariantHoldsAtReset : Prop := Inv State.reset

/-- 10_state R40 (a), (b), (d), 41_playback R157: every step keeps the invariant. -/
def Obligations.InvariantIsKeptByEveryStep : Prop :=
  ∀ (s t : State), Inv s → step s = .next t → Inv t

/-- 10_state R40 (c), 41_playback R153: the counter is the ticks owed by waits less the ticks spent: true at power-on
with an empty account, and kept by every step. -/
def Obligations.CounterIsTicksOwedLessTicksSpent : Prop :=
  Account.balanced ⟨0, 0⟩ State.reset ∧
  ∀ (a : Account) (s t : State), a.balanced s → step s = .next t → (a.advance s).balanced t

/-- 41_playback R155, 70_reset_and_hazards R284: a tick in progress on a track whose loop has a wait is over, with its one
response, after at most N + 2 steps. -/
def Obligations.TickReturnsWhenTheLoopHasAWait : Prop :=
  ∀ (s : State), s.bootPending = false → s.phase = .run → loopHasWait s = true →
    ∃ k t r, k ≤ s.N + 2 ∧ core.run k s = .next t ∧ t.phase = .idle ∧ t.responses = s.responses ++ [r]

/-- 41_playback R156: from the loop offset of a loop with no wait and no fault the tick never returns: after any number of
steps the sink goes along with, it is still running and unanswered. -/
def Obligations.TickWithoutAWaitNeverReturns : Prop :=
  ∀ (s : State) (l k : Nat), s.bootPending = false → s.phase = .run → s.loopOffset = some (l : Int) → l < s.N →
    loopHasWait s = false → s.cursor = l → sinkTakes k s →
    ∃ t, core.run k s = .next t ∧ t.phase = .run ∧ t.responses = s.responses ∧ t.inbox = s.inbox

/-! ### The NoteSequencer -/

/-- 43_note_sequencer_host R200: a script issues SET_TONE and SET_VOLUME operations and no other. -/
def Obligations.ScriptsIssueOnlyToneAndVolume : Prop :=
  ∀ (script : String) (op : HostOp), op ∈ requestsOf (play script).1 →
    (∃ c f, op = .setTone c f) ∨ ∃ c v, op = .setVolume c v

/-- 43_note_sequencer_host R210: a script that reaches the end of its input issues SET_VOLUME(0, 0) last. -/
def Obligations.FinishedScriptsEndInPanicSilence : Prop :=
  ∀ (script : String), (play script).2 = .done → (requestsOf (play script).1).getLast? = some (.setVolume 0 0)

/-! ### The host's limit on files -/

/-- 00_scope R10, 93_implementation_defined U7, 20_memory R57: of the operations the host wants, those that reach the
block are all but the LOADs of a file longer than the limit, each as often as it is wanted and in their order; the block
is not otherwise touched and reports nothing; the host of this instance is the one whose limit is `MAX_FILE_LEN`; and a
file that reaches the block is loaded to a stream within the limit. That the requests wait in a list is the model's
choice (logs 3, 10). -/
def Obligations.FilesBeyondTheLimitNeverReachTheBlock : Prop :=
  (∀ (limit : Option Nat) (ops : List HostOp) (s : State), s.hostRequestsWithin limit ops = { s with
    inbox := s.inbox ++ ops.filter fun op =>
      match op, limit with
      | .load file, some longest => file.length ≤ longest
      | _, _ => true }) ∧
  (∀ (ops : List HostOp) (s : State), s.hostRequests ops = s.hostRequestsWithin Config.maxFileLen ops) ∧
  (∀ (limit : Option Nat) (file : List Byte) (track : Track) (longest : Nat), limit = some longest →
    hostIssues limit (.load file) = true → parseVgm file = .ok track → track.commandStream.length ≤ longest - 0x40)
end

