-- ==== Sys2Proof/Laws/State.lean ====
section
/-! SUPPORT. One lemma per field per update of the state, each true by rfl. -/

namespace Sys2Proof.Machine

variable (s : State)

@[simp] theorem respond_commandStream (r : Response) : (respond r s).commandStream = s.commandStream := rfl
@[simp] theorem respond_loopOffset (r : Response) : (respond r s).loopOffset = s.loopOffset := rfl
@[simp] theorem respond_cursor (r : Response) : (respond r s).cursor = s.cursor := rfl
@[simp] theorem respond_pendingTicks (r : Response) : (respond r s).pendingTicks = s.pendingTicks := rfl
@[simp] theorem respond_ended (r : Response) : (respond r s).ended = s.ended := rfl
@[simp] theorem respond_fault (r : Response) : (respond r s).fault = s.fault := rfl
@[simp] theorem respond_phase (r : Response) : (respond r s).phase = .idle := rfl
@[simp] theorem respond_sinkTrace (r : Response) : (respond r s).sinkTrace = s.sinkTrace := rfl
@[simp] theorem respond_responses (r : Response) : (respond r s).responses = s.responses ++ [r] := rfl
@[simp] theorem respond_inbox (r : Response) : (respond r s).inbox = s.inbox := rfl
@[simp] theorem respond_sinkAnswers (r : Response) : (respond r s).sinkAnswers = s.sinkAnswers := rfl
@[simp] theorem respond_sinkCalls (r : Response) : (respond r s).sinkCalls = s.sinkCalls := rfl
@[simp] theorem respond_bootPending (r : Response) : (respond r s).bootPending = s.bootPending := rfl

@[simp] theorem takeAnswer_commandStream : (takeAnswer s).commandStream = s.commandStream := rfl
@[simp] theorem takeAnswer_loopOffset : (takeAnswer s).loopOffset = s.loopOffset := rfl
@[simp] theorem takeAnswer_cursor : (takeAnswer s).cursor = s.cursor := rfl
@[simp] theorem takeAnswer_pendingTicks : (takeAnswer s).pendingTicks = s.pendingTicks := rfl
@[simp] theorem takeAnswer_ended : (takeAnswer s).ended = s.ended := rfl
@[simp] theorem takeAnswer_fault : (takeAnswer s).fault = s.fault := rfl
@[simp] theorem takeAnswer_phase : (takeAnswer s).phase = s.phase := rfl
@[simp] theorem takeAnswer_sinkTrace : (takeAnswer s).sinkTrace = s.sinkTrace := rfl
@[simp] theorem takeAnswer_responses : (takeAnswer s).responses = s.responses := rfl
@[simp] theorem takeAnswer_inbox : (takeAnswer s).inbox = s.inbox := rfl
@[simp] theorem takeAnswer_sinkAnswers : (takeAnswer s).sinkAnswers = s.sinkAnswers.tail := rfl
@[simp] theorem takeAnswer_sinkCalls : (takeAnswer s).sinkCalls = s.sinkCalls + 1 := rfl
@[simp] theorem takeAnswer_bootPending : (takeAnswer s).bootPending = s.bootPending := rfl

@[simp] theorem raise_commandStream (f : BlockFault) : (raise f s).commandStream = s.commandStream := rfl
@[simp] theorem raise_loopOffset (f : BlockFault) : (raise f s).loopOffset = s.loopOffset := rfl
@[simp] theorem raise_cursor (f : BlockFault) : (raise f s).cursor = s.cursor := rfl
@[simp] theorem raise_pendingTicks (f : BlockFault) : (raise f s).pendingTicks = s.pendingTicks := rfl
@[simp] theorem raise_ended (f : BlockFault) : (raise f s).ended = s.ended := rfl
@[simp] theorem raise_phase (f : BlockFault) : (raise f s).phase = .idle := rfl
@[simp] theorem raise_sinkTrace (f : BlockFault) : (raise f s).sinkTrace = s.sinkTrace := rfl
@[simp] theorem raise_responses (f : BlockFault) : (raise f s).responses = s.responses ++ [.fault f] := rfl
@[simp] theorem raise_inbox (f : BlockFault) : (raise f s).inbox = s.inbox := rfl
@[simp] theorem raise_sinkAnswers (f : BlockFault) : (raise f s).sinkAnswers = s.sinkAnswers := rfl
@[simp] theorem raise_sinkCalls (f : BlockFault) : (raise f s).sinkCalls = s.sinkCalls := rfl
@[simp] theorem raise_bootPending (f : BlockFault) : (raise f s).bootPending = s.bootPending := rfl

@[simp] theorem advance_commandStream (n : Nat) : (advance n s).commandStream = s.commandStream := rfl
@[simp] theorem advance_loopOffset (n : Nat) : (advance n s).loopOffset = s.loopOffset := rfl
@[simp] theorem advance_cursor (n : Nat) : (advance n s).cursor = s.cursor + n := rfl
@[simp] theorem advance_pendingTicks (n : Nat) : (advance n s).pendingTicks = s.pendingTicks := rfl
@[simp] theorem advance_ended (n : Nat) : (advance n s).ended = s.ended := rfl
@[simp] theorem advance_fault (n : Nat) : (advance n s).fault = s.fault := rfl
@[simp] theorem advance_phase (n : Nat) : (advance n s).phase = s.phase := rfl
@[simp] theorem advance_sinkTrace (n : Nat) : (advance n s).sinkTrace = s.sinkTrace := rfl
@[simp] theorem advance_responses (n : Nat) : (advance n s).responses = s.responses := rfl
@[simp] theorem advance_inbox (n : Nat) : (advance n s).inbox = s.inbox := rfl
@[simp] theorem advance_sinkAnswers (n : Nat) : (advance n s).sinkAnswers = s.sinkAnswers := rfl
@[simp] theorem advance_sinkCalls (n : Nat) : (advance n s).sinkCalls = s.sinkCalls := rfl
@[simp] theorem advance_bootPending (n : Nat) : (advance n s).bootPending = s.bootPending := rfl

@[simp] theorem setEnded_commandStream : (setEnded s).commandStream = s.commandStream := rfl
@[simp] theorem setEnded_loopOffset : (setEnded s).loopOffset = s.loopOffset := rfl
@[simp] theorem setEnded_cursor : (setEnded s).cursor = s.cursor := rfl
@[simp] theorem setEnded_pendingTicks : (setEnded s).pendingTicks = s.pendingTicks := rfl
@[simp] theorem setEnded_ended : (setEnded s).ended = true := rfl
@[simp] theorem setEnded_fault : (setEnded s).fault = s.fault := rfl
@[simp] theorem setEnded_phase : (setEnded s).phase = s.phase := rfl
@[simp] theorem setEnded_sinkTrace : (setEnded s).sinkTrace = s.sinkTrace := rfl
@[simp] theorem setEnded_responses : (setEnded s).responses = s.responses := rfl
@[simp] theorem setEnded_inbox : (setEnded s).inbox = s.inbox := rfl
@[simp] theorem setEnded_sinkAnswers : (setEnded s).sinkAnswers = s.sinkAnswers := rfl
@[simp] theorem setEnded_sinkCalls : (setEnded s).sinkCalls = s.sinkCalls := rfl
@[simp] theorem setEnded_bootPending : (setEnded s).bootPending = s.bootPending := rfl

@[simp] theorem clearVerdict_commandStream : (clearVerdict s).commandStream = s.commandStream := rfl
@[simp] theorem clearVerdict_loopOffset : (clearVerdict s).loopOffset = s.loopOffset := rfl
@[simp] theorem clearVerdict_cursor : (clearVerdict s).cursor = s.cursor := rfl
@[simp] theorem clearVerdict_pendingTicks : (clearVerdict s).pendingTicks = s.pendingTicks := rfl
@[simp] theorem clearVerdict_ended : (clearVerdict s).ended = false := rfl
@[simp] theorem clearVerdict_fault : (clearVerdict s).fault = none := rfl
@[simp] theorem clearVerdict_phase : (clearVerdict s).phase = s.phase := rfl
@[simp] theorem clearVerdict_sinkTrace : (clearVerdict s).sinkTrace = s.sinkTrace := rfl
@[simp] theorem clearVerdict_responses : (clearVerdict s).responses = s.responses := rfl
@[simp] theorem clearVerdict_inbox : (clearVerdict s).inbox = s.inbox := rfl
@[simp] theorem clearVerdict_sinkAnswers : (clearVerdict s).sinkAnswers = s.sinkAnswers := rfl
@[simp] theorem clearVerdict_sinkCalls : (clearVerdict s).sinkCalls = s.sinkCalls := rfl
@[simp] theorem clearVerdict_bootPending : (clearVerdict s).bootPending = s.bootPending := rfl

@[simp] theorem commitTrack_commandStream (t : Track) : (commitTrack t s).commandStream = t.commandStream := rfl
@[simp] theorem commitTrack_loopOffset (t : Track) : (commitTrack t s).loopOffset = t.loopOffset := rfl
@[simp] theorem commitTrack_cursor (t : Track) : (commitTrack t s).cursor = 0 := rfl
@[simp] theorem commitTrack_pendingTicks (t : Track) : (commitTrack t s).pendingTicks = 0 := rfl
@[simp] theorem commitTrack_ended (t : Track) : (commitTrack t s).ended = false := rfl
@[simp] theorem commitTrack_fault (t : Track) : (commitTrack t s).fault = none := rfl
@[simp] theorem commitTrack_phase (t : Track) : (commitTrack t s).phase = s.phase := rfl
@[simp] theorem commitTrack_sinkTrace (t : Track) : (commitTrack t s).sinkTrace = s.sinkTrace := rfl
@[simp] theorem commitTrack_responses (t : Track) : (commitTrack t s).responses = s.responses := rfl
@[simp] theorem commitTrack_inbox (t : Track) : (commitTrack t s).inbox = s.inbox := rfl
@[simp] theorem commitTrack_sinkAnswers (t : Track) : (commitTrack t s).sinkAnswers = s.sinkAnswers := rfl
@[simp] theorem commitTrack_sinkCalls (t : Track) : (commitTrack t s).sinkCalls = s.sinkCalls := rfl
@[simp] theorem commitTrack_bootPending (t : Track) : (commitTrack t s).bootPending = s.bootPending := rfl

@[simp] theorem takeRequest_commandStream (rest : List HostOp) : (takeRequest rest s).commandStream = s.commandStream := rfl
@[simp] theorem takeRequest_loopOffset (rest : List HostOp) : (takeRequest rest s).loopOffset = s.loopOffset := rfl
@[simp] theorem takeRequest_cursor (rest : List HostOp) : (takeRequest rest s).cursor = s.cursor := rfl
@[simp] theorem takeRequest_pendingTicks (rest : List HostOp) : (takeRequest rest s).pendingTicks = s.pendingTicks := rfl
@[simp] theorem takeRequest_ended (rest : List HostOp) : (takeRequest rest s).ended = s.ended := rfl
@[simp] theorem takeRequest_fault (rest : List HostOp) : (takeRequest rest s).fault = s.fault := rfl
@[simp] theorem takeRequest_phase (rest : List HostOp) : (takeRequest rest s).phase = s.phase := rfl
@[simp] theorem takeRequest_sinkTrace (rest : List HostOp) : (takeRequest rest s).sinkTrace = s.sinkTrace := rfl
@[simp] theorem takeRequest_responses (rest : List HostOp) : (takeRequest rest s).responses = s.responses := rfl
@[simp] theorem takeRequest_inbox (rest : List HostOp) : (takeRequest rest s).inbox = rest := rfl
@[simp] theorem takeRequest_sinkAnswers (rest : List HostOp) : (takeRequest rest s).sinkAnswers = s.sinkAnswers := rfl
@[simp] theorem takeRequest_sinkCalls (rest : List HostOp) : (takeRequest rest s).sinkCalls = s.sinkCalls := rfl
@[simp] theorem takeRequest_bootPending (rest : List HostOp) : (takeRequest rest s).bootPending = s.bootPending := rfl

@[simp] theorem answered_commandStream (n : Nat) : (answered n s).commandStream = s.commandStream := rfl
@[simp] theorem answered_loopOffset (n : Nat) : (answered n s).loopOffset = s.loopOffset := rfl
@[simp] theorem answered_cursor (n : Nat) : (answered n s).cursor = s.cursor := rfl
@[simp] theorem answered_pendingTicks (n : Nat) : (answered n s).pendingTicks = s.pendingTicks := rfl
@[simp] theorem answered_ended (n : Nat) : (answered n s).ended = s.ended := rfl
@[simp] theorem answered_fault (n : Nat) : (answered n s).fault = s.fault := rfl
@[simp] theorem answered_phase (n : Nat) : (answered n s).phase = s.phase := rfl
@[simp] theorem answered_sinkTrace (n : Nat) : (answered n s).sinkTrace = s.sinkTrace := rfl
@[simp] theorem answered_responses (n : Nat) : (answered n s).responses = s.responses := rfl
@[simp] theorem answered_inbox (n : Nat) : (answered n s).inbox = s.inbox := rfl
@[simp] theorem answered_sinkAnswers (n : Nat) : (answered n s).sinkAnswers = s.sinkAnswers.drop n := rfl
@[simp] theorem answered_sinkCalls (n : Nat) : (answered n s).sinkCalls = s.sinkCalls + n := rfl
@[simp] theorem answered_bootPending (n : Nat) : (answered n s).bootPending = s.bootPending := rfl

@[simp] theorem wroteAll_commandStream (bs : List Byte) : (wroteAll bs s).commandStream = s.commandStream := rfl
@[simp] theorem wroteAll_loopOffset (bs : List Byte) : (wroteAll bs s).loopOffset = s.loopOffset := rfl
@[simp] theorem wroteAll_cursor (bs : List Byte) : (wroteAll bs s).cursor = s.cursor := rfl
@[simp] theorem wroteAll_pendingTicks (bs : List Byte) : (wroteAll bs s).pendingTicks = s.pendingTicks := rfl
@[simp] theorem wroteAll_ended (bs : List Byte) : (wroteAll bs s).ended = s.ended := rfl
@[simp] theorem wroteAll_fault (bs : List Byte) : (wroteAll bs s).fault = s.fault := rfl
@[simp] theorem wroteAll_phase (bs : List Byte) : (wroteAll bs s).phase = s.phase := rfl
@[simp] theorem wroteAll_sinkTrace (bs : List Byte) : (wroteAll bs s).sinkTrace = s.sinkTrace ++ bs := rfl
@[simp] theorem wroteAll_responses (bs : List Byte) : (wroteAll bs s).responses = s.responses := rfl
@[simp] theorem wroteAll_inbox (bs : List Byte) : (wroteAll bs s).inbox = s.inbox := rfl
@[simp] theorem wroteAll_sinkAnswers (bs : List Byte) : (wroteAll bs s).sinkAnswers = s.sinkAnswers.drop bs.length := rfl
@[simp] theorem wroteAll_sinkCalls (bs : List Byte) : (wroteAll bs s).sinkCalls = s.sinkCalls + bs.length := rfl
@[simp] theorem wroteAll_bootPending (bs : List Byte) : (wroteAll bs s).bootPending = s.bootPending := rfl

@[simp] theorem wroteUntilRefusal_commandStream (bs : List Byte) : (wroteUntilRefusal bs s).commandStream = s.commandStream := rfl
@[simp] theorem wroteUntilRefusal_loopOffset (bs : List Byte) : (wroteUntilRefusal bs s).loopOffset = s.loopOffset := rfl
@[simp] theorem wroteUntilRefusal_cursor (bs : List Byte) : (wroteUntilRefusal bs s).cursor = s.cursor := rfl
@[simp] theorem wroteUntilRefusal_pendingTicks (bs : List Byte) : (wroteUntilRefusal bs s).pendingTicks = s.pendingTicks := rfl
@[simp] theorem wroteUntilRefusal_ended (bs : List Byte) : (wroteUntilRefusal bs s).ended = s.ended := rfl
@[simp] theorem wroteUntilRefusal_fault (bs : List Byte) : (wroteUntilRefusal bs s).fault = s.fault := rfl
@[simp] theorem wroteUntilRefusal_phase (bs : List Byte) : (wroteUntilRefusal bs s).phase = s.phase := rfl
@[simp] theorem wroteUntilRefusal_sinkTrace (bs : List Byte) : (wroteUntilRefusal bs s).sinkTrace = s.sinkTrace ++ bs := rfl
@[simp] theorem wroteUntilRefusal_responses (bs : List Byte) : (wroteUntilRefusal bs s).responses = s.responses := rfl
@[simp] theorem wroteUntilRefusal_inbox (bs : List Byte) : (wroteUntilRefusal bs s).inbox = s.inbox := rfl
@[simp] theorem wroteUntilRefusal_sinkAnswers (bs : List Byte) : (wroteUntilRefusal bs s).sinkAnswers = s.sinkAnswers.drop (bs.length + 1) := rfl
@[simp] theorem wroteUntilRefusal_sinkCalls (bs : List Byte) : (wroteUntilRefusal bs s).sinkCalls = s.sinkCalls + (bs.length + 1) := rfl
@[simp] theorem wroteUntilRefusal_bootPending (bs : List Byte) : (wroteUntilRefusal bs s).bootPending = s.bootPending := rfl

/-- Inside a tick a playback fault is latched (60_exceptions R241). -/
theorem raise_fault_run (f : BlockFault) (h : s.phase = .run) : (raise f s).fault = (f.latched <|> s.fault) := by
  simp [raise, respond, h]

/-- Outside a tick nothing is latched (60_exceptions R241). -/
theorem raise_fault_idle (f : BlockFault) (h : s.phase = .idle) : (raise f s).fault = s.fault := by
  simp [raise, respond, h]

@[simp] theorem raisePlayback_fault_run (f : PlaybackFault) (h : s.phase = .run) :
    (raisePlayback f s).fault = some f := by
  simp [raisePlayback, raise_fault_run, h, BlockFault.latched]

@[simp] theorem setPhase_self (p : Phase) (h : s.phase = p) : { s with phase := p } = s := by
  cases s; cases h; rfl

@[simp] theorem hostRequestsWithin_commandStream (limit : Option Nat) (ops : List HostOp) :
    (s.hostRequestsWithin limit ops).commandStream = s.commandStream := rfl
@[simp] theorem hostRequestsWithin_loopOffset (limit : Option Nat) (ops : List HostOp) :
    (s.hostRequestsWithin limit ops).loopOffset = s.loopOffset := rfl
@[simp] theorem hostRequestsWithin_cursor (limit : Option Nat) (ops : List HostOp) :
    (s.hostRequestsWithin limit ops).cursor = s.cursor := rfl
@[simp] theorem hostRequestsWithin_pendingTicks (limit : Option Nat) (ops : List HostOp) :
    (s.hostRequestsWithin limit ops).pendingTicks = s.pendingTicks := rfl
@[simp] theorem hostRequestsWithin_ended (limit : Option Nat) (ops : List HostOp) :
    (s.hostRequestsWithin limit ops).ended = s.ended := rfl
@[simp] theorem hostRequestsWithin_fault (limit : Option Nat) (ops : List HostOp) :
    (s.hostRequestsWithin limit ops).fault = s.fault := rfl
@[simp] theorem hostRequestsWithin_phase (limit : Option Nat) (ops : List HostOp) :
    (s.hostRequestsWithin limit ops).phase = s.phase := rfl
@[simp] theorem hostRequestsWithin_sinkTrace (limit : Option Nat) (ops : List HostOp) :
    (s.hostRequestsWithin limit ops).sinkTrace = s.sinkTrace := rfl
@[simp] theorem hostRequestsWithin_responses (limit : Option Nat) (ops : List HostOp) :
    (s.hostRequestsWithin limit ops).responses = s.responses := rfl
@[simp] theorem hostRequestsWithin_inbox (limit : Option Nat) (ops : List HostOp) :
    (s.hostRequestsWithin limit ops).inbox = s.inbox ++ ops.filter (hostIssues limit) := rfl
@[simp] theorem hostRequestsWithin_sinkAnswers (limit : Option Nat) (ops : List HostOp) :
    (s.hostRequestsWithin limit ops).sinkAnswers = s.sinkAnswers := rfl
@[simp] theorem hostRequestsWithin_sinkCalls (limit : Option Nat) (ops : List HostOp) :
    (s.hostRequestsWithin limit ops).sinkCalls = s.sinkCalls := rfl
@[simp] theorem hostRequestsWithin_bootPending (limit : Option Nat) (ops : List HostOp) :
    (s.hostRequestsWithin limit ops).bootPending = s.bootPending := rfl

end Sys2Proof.Machine
end

