-- ==== Sys2Proof/Laws/Ops.lean ====
section
/-! SUPPORT. What each shared operation can do, said once. -/

namespace Sys2Proof.Machine

section Sink

theorem answerAt_zero (s : State) : answerAt s 0 = nextAnswer s := by
  unfold answerAt nextAnswer
  cases s.sinkAnswers <;> rfl

theorem answerAt_takeAnswer (s : State) (k : Nat) : answerAt (takeAnswer s) k = answerAt s (k + 1) := by
  simp only [answerAt, takeAnswer_sinkAnswers, takeAnswer_sinkCalls]
  cases s.sinkAnswers with
  | nil => simp [Nat.add_assoc, Nat.add_comm 1 k]
  | cons a as => simp [Nat.add_assoc, Nat.add_comm 1 k]

/-- `answerAt` reads the environment's data alone. -/
theorem answerAt_congr {s t : State} (ha : s.sinkAnswers = t.sinkAnswers) (hc : s.sinkCalls = t.sinkCalls) (k : Nat) :
    answerAt s k = answerAt t k := by
  simp [answerAt, ha, hc]

theorem sinkWrite_ok {b : Byte} {s : State} (h : answerAt s 0 = .ok) : sinkWrite b s = (.ok, wroteAll [b] s) := by
  rw [answerAt_zero] at h
  simp [sinkWrite, h, wroteAll, answered, takeAnswer]

theorem sinkWrite_refused {b : Byte} {s : State} (h : answerAt s 0 = .ioError) :
    sinkWrite b s = (.ioError, wroteUntilRefusal [] s) := by
  rw [answerAt_zero] at h
  simp [sinkWrite, h, wroteUntilRefusal, answered, takeAnswer]

theorem answerAt_wroteAll (bs : List Byte) (s : State) (k : Nat) :
    answerAt (wroteAll bs s) k = answerAt s (bs.length + k) := by
  simp [answerAt, List.getElem?_drop, Nat.add_assoc]

theorem wroteAll_nil (s : State) : wroteAll [] s = s := by
  cases s; simp [wroteAll, answered]

theorem wroteAll_append (as bs : List Byte) (s : State) : wroteAll bs (wroteAll as s) = wroteAll (as ++ bs) s := by
  cases s; simp [wroteAll, answered, Nat.add_assoc]

theorem wroteUntilRefusal_wroteAll (as bs : List Byte) (s : State) :
    wroteUntilRefusal bs (wroteAll as s) = wroteUntilRefusal (as ++ bs) s := by
  cases s; simp [wroteAll, wroteUntilRefusal, answered, Nat.add_assoc]

/-- Every byte is accepted: the emission writes them all (20_memory R54). -/
theorem emit_ok : ∀ (bs : List Byte) (s : State), sinkTakes bs.length s → emit bs s = (.ok, wroteAll bs s)
  | [], s, _ => by simp [emit, wroteAll_nil]
  | b :: bs, s, h => by
    have h0 : answerAt s 0 = .ok := h 0 (by simp)
    have hs : sinkTakes bs.length (wroteAll [b] s) := by
      intro k hk
      rw [answerAt_wroteAll]
      exact h _ (by simp only [List.length_cons, List.length_nil]; omega)
    simp [emit, sinkWrite_ok h0, emit_ok bs _ hs, wroteAll_append]

/-- The k-th byte is the first the sink refuses: the bytes before it are written and no other (20_memory R53). -/
theorem emit_refused : ∀ (bs : List Byte) (s : State) (k : Nat), k < bs.length → sinkTakes k s →
    answerAt s k = .ioError → emit bs s = (.ioError, wroteUntilRefusal (bs.take k) s)
  | [], _, k, hk, _, _ => by simp at hk
  | b :: bs, s, 0, _, _, h => by simp [emit, sinkWrite_refused h]
  | b :: bs, s, k + 1, hk, ht, h => by
    have h0 : answerAt s 0 = .ok := ht 0 (by omega)
    have hs : sinkTakes k (wroteAll [b] s) := by
      intro j hj
      rw [answerAt_wroteAll]
      exact ht _ (by simp only [List.length_cons, List.length_nil]; omega)
    have ha : answerAt (wroteAll [b] s) k = .ioError := by
      rw [answerAt_wroteAll, List.length_singleton, Nat.add_comm]; exact h
    simp [emit, sinkWrite_ok h0, emit_refused bs _ k (by simpa using hk) hs ha, wroteUntilRefusal_wroteAll]

/-- An emission writes every byte, or stops at the first the sink refuses. -/
theorem emit_cases (bs : List Byte) (s : State) :
    (sinkTakes bs.length s ∧ emit bs s = (.ok, wroteAll bs s)) ∨
    ∃ k, k < bs.length ∧ sinkTakes k s ∧ answerAt s k = .ioError ∧
      emit bs s = (.ioError, wroteUntilRefusal (bs.take k) s) := by
  by_cases h : sinkTakes bs.length s
  · exact .inl ⟨h, emit_ok bs s h⟩
  · have hex : ∃ k, k < bs.length ∧ answerAt s k = .ioError := by
      by_contra hc
      apply h
      intro k hk
      cases ha : answerAt s k with
      | ok => rfl
      | ioError => exact absurd ⟨k, hk, ha⟩ hc
    classical
    obtain ⟨hk, ha⟩ := Nat.find_spec hex
    have ht : sinkTakes (Nat.find hex) s := by
      intro j hj
      cases hb : answerAt s j with
      | ok => rfl
      | ioError => exact absurd ⟨by omega, hb⟩ (Nat.find_min hex hj)
    exact .inr ⟨_, hk, ht, ha, emit_refused bs s _ hk ht ha⟩

end Sink

section Faults

/-- `SinkIoError` stops an emission that the sink refuses, else the operation goes on (20_memory R53). -/
theorem emitThen_cases (bs : List Byte) (next : State → State) (s : State) :
    (sinkTakes bs.length s ∧ emitThen bs next s = next (wroteAll bs s)) ∨
    ∃ k, k < bs.length ∧ sinkTakes k s ∧ answerAt s k = .ioError ∧
      emitThen bs next s = raisePlayback .sinkIo (wroteUntilRefusal (bs.take k) s) := by
  rcases emit_cases bs s with ⟨h, e⟩ | ⟨k, hk, ht, ha, e⟩
  · exact .inl ⟨h, by simp [emitThen, e]⟩
  · exact .inr ⟨k, hk, ht, ha, by simp [emitThen, e]⟩

theorem emitThen_ok {bs : List Byte} {next : State → State} {s : State} (h : sinkTakes bs.length s) :
    emitThen bs next s = next (wroteAll bs s) := by
  simp [emitThen, emit_ok bs s h]

theorem emitThen_refused {bs : List Byte} {next : State → State} {s : State} {k : Nat} (hk : k < bs.length)
    (ht : sinkTakes k s) (ha : answerAt s k = .ioError) :
    emitThen bs next s = raisePlayback .sinkIo (wroteUntilRefusal (bs.take k) s) := by
  simp [emitThen, emit_refused bs s k hk ht ha]

/-- A fault taken outside a tick is the response and nothing else (60_exceptions R241). -/
theorem raise_idle {f : BlockFault} {s : State} (h : s.phase = .idle) : raise f s = respond (.fault f) s := by
  simp [raise, h]

/-- A playback fault taken inside a tick is latched and answered (60_exceptions R240, R241). -/
theorem raisePlayback_run {f : PlaybackFault} {s : State} (h : s.phase = .run) :
    raisePlayback f s = respond (.fault (.playback f)) { s with fault := some f } := by
  simp [raisePlayback, raise, h, BlockFault.latched]

end Faults

section Phases

theorem accepting_iff (s : State) : s.accepting = true ↔ s.phase = .idle ∧ s.bootPending = false := by
  simp [State.accepting]

theorem whenAccepting_next {act : State → State} {s : State} (h : s.accepting = true) :
    whenAccepting act s = .next (act s) := by
  simp [whenAccepting, h]

theorem whenAccepting_cases (act : State → State) (s : State) :
    (s.accepting = true ∧ whenAccepting act s = .next (act s)) ∨
    (s.accepting = false ∧ whenAccepting act s = .fault .operationNotAccepted) := by
  cases h : s.accepting <;> simp [whenAccepting, h]

theorem whenRunning_next {act : State → State} {s : State} (h : s.phase = .run) :
    whenRunning act s = .next (act s) := by
  simp [whenRunning, h]

theorem whenRunning_cases (act : State → State) (s : State) :
    (s.phase = .run ∧ whenRunning act s = .next (act s)) ∨
    (s.phase = .idle ∧ whenRunning act s = .fault .noTickInProgress) := by
  cases h : s.phase <;> simp [whenRunning, h]

end Phases

section Commands

/-- END by its three outcomes (41_playback R149). -/
theorem endOfStream_cases (s : State) :
    (s.loopOffset = none ∧ endOfStream s = respond .ok (setEnded (advance 1 s))) ∨
    (∃ l : Int, s.loopOffset = some l ∧ 0 ≤ l ∧ l < s.N ∧ endOfStream s = { s with cursor := l.toNat }) ∨
    (∃ l : Int, s.loopOffset = some l ∧ ¬ (0 ≤ l ∧ l < s.N) ∧
      endOfStream s = raisePlayback (.truncatedStream l) s) := by
  cases h : s.loopOffset with
  | none => exact .inl ⟨rfl, by simp [endOfStream, h]⟩
  | some l =>
    by_cases hl : 0 ≤ l ∧ l < s.N
    · exact .inr (.inl ⟨l, rfl, hl.1, hl.2, by simp only [endOfStream, h, jumpToLoop, if_pos hl]⟩)
    · exact .inr (.inr ⟨l, rfl, hl, by simp only [endOfStream, h, jumpToLoop, if_neg hl]⟩)

/-- LOAD commits or answers the fault (40_loader R128, R132). -/
theorem loadFile_cases (file : List Byte) (s : State) :
    (∃ t, parseVgm file = .ok t ∧ loadFile file s = respond .ok (commitTrack t s)) ∨
    (∃ f, parseVgm file = .error f ∧ loadFile file s = raise f s) := by
  cases h : parseVgm file with
  | ok t => exact .inl ⟨t, rfl, by simp [loadFile, h]⟩
  | error f => exact .inr ⟨f, rfl, by simp [loadFile, h]⟩

/-- TICK's entry by its four outcomes (41_playback R140, R141). -/
theorem startTick_cases (s : State) :
    (∃ f, s.fault = some f ∧ startTick s = raise (.playback f) s) ∨
    (s.fault = none ∧ s.ended = true ∧ startTick s = raise .endOfSong s) ∨
    (s.fault = none ∧ s.ended = false ∧ 0 < s.pendingTicks ∧
      startTick s = respond .ok { s with pendingTicks := s.pendingTicks - 1 }) ∨
    (s.fault = none ∧ s.ended = false ∧ s.pendingTicks ≤ 0 ∧
      startTick s = { s with pendingTicks := s.pendingTicks - 1, phase := .run }) := by
  cases hf : s.fault with
  | some f => exact .inl ⟨f, rfl, by simp [startTick, tickVerdict, hf]⟩
  | none =>
    cases he : s.ended with
    | true => exact .inr (.inl ⟨rfl, rfl, by simp [startTick, tickVerdict, hf, he]⟩)
    | false =>
      by_cases hp : 0 < s.pendingTicks
      · exact .inr (.inr (.inl ⟨rfl, rfl, hp, by simp [startTick, tickVerdict, hf, he, spendTick, hp]⟩))
      · exact .inr (.inr (.inr ⟨rfl, rfl, by omega, by simp [startTick, tickVerdict, hf, he, spendTick, hp]⟩))

/-- A SET operation answers out of range before any byte, or emits its frame (42_register_encoder R174, R176, R178). -/
theorem setOperation_cases (d : Bool) (frame : List Byte) (s : State) :
    (d = false ∧ setOperation d frame s = raise .outOfRangeParameter s) ∨
    (d = true ∧ setOperation d frame s = emitThen frame (respond .ok) s) := by
  cases d <;> simp [setOperation]

/-- The power-on emission writes all four bytes, or those before the first refusal (70_reset_and_hazards R271). -/
theorem powerOnEmission_cases (s : State) :
    (sinkTakes 4 s ∧ powerOnEmission s = { wroteAll Config.resetSeq s with bootPending := false }) ∨
    ∃ k, k < 4 ∧ sinkTakes k s ∧ answerAt s k = .ioError ∧
      powerOnEmission s = { wroteUntilRefusal (Config.resetSeq.take k) s with bootPending := false } := by
  rcases emit_cases Config.resetSeq s with ⟨h, e⟩ | ⟨k, hk, ht, ha, e⟩
  · exact .inl ⟨h, by simp [powerOnEmission, e]⟩
  · exact .inr ⟨k, hk, ht, ha, by simp [powerOnEmission, e]⟩

end Commands

section Decoding

/-- The decoder's outcomes on a stream that goes on (30_encoding R82, R85). -/
theorem decode_cons_illegal {op : Byte} {rest : List Byte} (h : (Instr.illegal op).wf = true) :
    decode (op :: rest) = .ok (.illegal op) := by
  simp [Instr.wf, legalOpcodes] at h
  simp [decode, h]

theorem decode_write (dd : Byte) (rest : List Byte) : decode (0x50 :: dd :: rest) = .ok (.write dd) := rfl

theorem decode_wait (lo hi : Byte) (rest : List Byte) : decode (0x61 :: lo :: hi :: rest) = .ok (.wait (u16 lo hi)) := rfl

theorem decode_wait1 (rest : List Byte) : decode (0x62 :: rest) = .ok .wait1 := rfl

theorem decode_endMark (rest : List Byte) : decode (0x66 :: rest) = .ok .endMark := rfl

/-- The WAIT operand is `lo + 256*hi` (00_scope R14). -/
theorem u16_toNat (lo hi : Byte) : (u16 lo hi).toNat = lo.toNat + 256 * hi.toNat := by
  have := lo.isLt
  simp only [u16, BitVec.toNat_append]
  rw [Nat.shiftLeft_eq, ← Nat.shiftLeft_eq, ← Nat.shiftLeft_add_eq_or_of_lt (by simpa using this), Nat.shiftLeft_eq]
  omega

end Decoding

section Memory

/-- The address space CS is in canonical form in every state (log 8). -/
theorem memory_wf (s : State) : Memory.wf (memory s) := by
  unfold Memory.wf memory
  rw [List.pairwise_map, List.pairwise_iff_getElem]
  intro i j hi hj hij
  simpa using hij

/-- A cell of the address space is a byte of the command stream at its index (20_memory R50, R51). -/
theorem mem_memory {s : State} {a : Nat} {b : Byte} : (a, b) ∈ memory s ↔ readByte s a = some b := by
  simp [memory, readByte, List.mem_zipIdx_iff_getElem?]

theorem reset_memory : memory State.reset = [] := rfl

/-- The write operations of the address space, LOAD's commit and a placed word, keep the canonical form. -/
theorem commitTrack_wf (t : Track) (s : State) : Memory.wf (memory (commitTrack t s)) := memory_wf _

theorem placeTableWord_wf (nbits w : Nat) (s : State) : Memory.wf (memory (placeTableWord nbits w s)) := memory_wf _

end Memory

end Sys2Proof.Machine
end

