-- ==== Sys2Proof/Laws/Operands.lean ====
section
/-! SUPPORT. The operand forms and the loader, one lemma for each. -/

namespace Sys2Proof.Machine

section Words

theorem u16_low (lo hi : Byte) : (u16 lo hi).extractLsb' 0 8 = lo := by
  apply BitVec.eq_of_toNat_eq
  rw [BitVec.extractLsb'_toNat, u16_toNat]
  have := lo.isLt
  simp; omega

theorem u16_high (lo hi : Byte) : (u16 lo hi).extractLsb' 8 8 = hi := by
  apply BitVec.eq_of_toNat_eq
  rw [BitVec.extractLsb'_toNat, u16_toNat]
  have := lo.isLt
  have := hi.isLt
  rw [Nat.shiftRight_eq_div_pow]
  omega

/-- A WAIT operand is put together again from its two bytes (30_encoding R83). -/
theorem u16_extract (n : BitVec 16) : u16 (n.extractLsb' 0 8) (n.extractLsb' 8 8) = n := by
  apply BitVec.eq_of_toNat_eq
  have := n.isLt
  rw [u16_toNat]
  simp only [BitVec.extractLsb'_toNat, Nat.shiftRight_eq_div_pow]
  omega

/-- The ticks of a WAIT are 0 to 89 (30_encoding R83). -/
theorem waitTicks_bounds (n : BitVec 16) : 0 ≤ waitTicks n ∧ waitTicks n ≤ 89 := by
  have := n.isLt
  simp [waitTicks, Config.samplesPerTick]; omega

/-- A header word is not there exactly when the file ends before it does (40_loader R129). -/
theorem u32le_eq_none_iff (file : List Byte) (o : Nat) : u32le file o = none ↔ file.length < o + 4 := by
  unfold u32le
  constructor
  · intro h
    by_contra hc
    have h0 : o < file.length := by omega
    have h1 : o + 1 < file.length := by omega
    have h2 : o + 2 < file.length := by omega
    have h3 : o + 3 < file.length := by omega
    simp [h0, h1, h2, h3] at h
  · intro h
    have : file[o + 3]? = none := by simp; omega
    rw [this]; split <;> simp_all

end Words

section Decoding

/-- Every opcode byte but WRITE's and WAIT's is a whole command (30_encoding R81, R86). -/
theorem decode_cons_other {op : Byte} {rest : List Byte} (h1 : op ≠ 0x50) (h2 : op ≠ 0x61) :
    decode (op :: rest) = .ok (if op = 0x62 then .wait1 else if op = 0x66 then .endMark else .illegal op) := by
  unfold decode; dsimp only; rw [if_neg h1, if_neg h2]; repeat' split
  all_goals rfl

/-- Only stream commands are decoded (30_encoding R82, R85). -/
theorem decode_isStream {bytes : List Byte} {i : Instr} (h : decode bytes = .ok i) : i.isStream = true := by
  unfold decode at h
  split at h
  · simp at h
  · repeat' split at h
    all_goals cases h
    all_goals rfl

/-- A byte below N stands at the front of what is decoded from there (20_memory R62). -/
theorem drop_of_readByte {s : State} {op : Byte} (h : readByte s s.cursor = some op) :
    s.commandStream.drop s.cursor = op :: s.commandStream.drop (s.cursor + 1) := by
  unfold readByte at h
  rw [List.getElem?_eq_some_iff] at h
  obtain ⟨hl, rfl⟩ := h
  exact List.drop_eq_getElem_cons hl

/-- Bytes laid over a stream at an index are what is read from there. -/
theorem drop_layAt (stream bytes : List Byte) (n : Nat) :
    (layAt stream n bytes).drop n = bytes ++ stream.drop (n + bytes.length) := by
  have hl : (stream.take n ++ List.replicate (n - stream.length) 0).length = n := by simp; omega
  rw [layAt, List.append_assoc, List.append_assoc, ← List.append_assoc, List.drop_append_of_le_length (by rw [hl]),
    List.drop_eq_nil_of_le (by rw [hl]), List.nil_append]

end Decoding

section Domains

theorem toneInDomain_iff (c : Int) (f : Rat) : toneInDomain c f = true ↔ 0 ≤ c ∧ c ≤ 2 ∧ 0 < f := by
  simp [toneInDomain, and_assoc]

theorem volumeInDomain_iff (c v : Int) : volumeInDomain c v = true ↔ 0 ≤ c ∧ c ≤ 3 ∧ 0 ≤ v ∧ v ≤ 15 := by
  simp [volumeInDomain, and_assoc]

theorem noiseInDomain_iff (m r : Int) : noiseInDomain m r = true ↔ 0 ≤ m ∧ m ≤ 1 ∧ 0 ≤ r ∧ r ≤ 3 := by
  simp [noiseInDomain, and_assoc]

end Domains

section Requests

/-- A LOAD is issued exactly within the limit (93_implementation_defined U7). -/
theorem hostIssues_load_iff (limit : Option Nat) (file : List Byte) :
    hostIssues limit (.load file) = true ↔ ∀ longest, limit = some longest → file.length ≤ longest := by
  cases limit <;> simp [hostIssues]

/-- Every other operation is issued (70_reset_and_hazards R291). -/
theorem hostIssues_other {limit : Option Nat} {op : HostOp} (h : ∀ file, op ≠ .load file) :
    hostIssues limit op = true := by
  cases op with
  | load file => exact absurd rfl (h file)
  | _ => rfl

end Requests

section Loader

theorem tagOk_iff (file : List Byte) : tagOk file = true ↔ [0x56, 0x67, 0x6D, 0x20] <+: file := by
  unfold tagOk Config.vgmTag
  rw [decide_eq_true_iff, List.prefix_iff_eq_take]; exact ⟨Eq.symm, Eq.symm⟩

/-- What an accepted file holds (40_loader R121 to R126). -/
theorem parseVgm_ok {file : List Byte} {t : Track} (h : parseVgm file = .ok t) :
    ∃ e r, u32le file 4 = some e ∧ e.toNat + 4 ≤ file.length ∧ u32le file 0x1C = some r ∧
      t = ⟨streamOf file e, loopOffsetOf r⟩ ∧ tagOk file = true ∧ u32le file 8 = some Config.vgmVersion ∧
      u32le file 12 = some Config.clockWord := by
  unfold parseVgm at h
  repeat' split at h
  all_goals cases h
  simp_all [Config.loopField]

/-- No load fault is one that is latched (60_exceptions R241). -/
theorem parseVgm_error_unlatched {file : List Byte} {f : BlockFault} (h : parseVgm file = .error f) :
    f.latched = none := by
  unfold parseVgm at h
  repeat' split at h
  all_goals cases h
  all_goals rfl

/-- A header's loop offset lies in -35 to 2^32 - 37 (10_state R22). -/
theorem loopOffsetOf_range (w : Word32) : loopOffsetFromHeader (loopOffsetOf w) := by
  intro l hl
  unfold loopOffsetOf at hl
  split at hl
  · cases hl
  · rename_i hw
    have := w.isLt
    have hz : w.toNat ≠ 0 := fun h => hw (BitVec.eq_of_toNat_eq (by simpa using h))
    simp [Config.loopField, Config.streamBase] at hl
    omega

end Loader

end Sys2Proof.Machine
end

