-- ==== Sys2Proof/Laws/PerInstr.lean ====
section
/-! SUPPORT. A fact about every instruction as syntax, one lemma a constructor: a well-formed instruction's bytes are of
the length and lie under the mask and match of its own row of the opcode table. -/

namespace Sys2Proof.Laws.TableRow

/-- The mask, the match and the length in bytes of an instruction's row of the opcode table; the ILLEGAL row has no mask
(30_encoding R81, R85, R90, R91, R93, R94, R98). -/
def row : Instr → Byte × Byte × Nat
  | .write _ => (0xFF, 0x50, 2)
  | .wait _ => (0xFF, 0x61, 3)
  | .wait1 => (0xFF, 0x62, 1)
  | .endMark => (0xFF, 0x66, 1)
  | .illegal _ => (0x00, 0x00, 1)
  | .reset => (0xFF, 0x00, 1)
  | .load _ => (0xFF, 0x01, 1)
  | .tick => (0xFF, 0x02, 1)
  | .setTone _ _ => (0xFF, 0x03, 1)
  | .setVolume _ _ => (0xFF, 0x04, 1)
  | .setNoise _ _ => (0xFF, 0x05, 1)
  | .toneLatch _ _ => (0x90, 0x80, 1)
  | .toneData _ => (0xC0, 0x00, 1)
  | .volume _ _ => (0x90, 0x90, 1)
  | .noise _ _ => (0xF8, 0xF0, 1)

/-- The first byte matches the row and the length is the row's; an illegal opcode is none of the four legal ones. -/
def Statement (i : Instr) : Prop :=
  i.wf = true → (encode i).length = (row i).2.2 ∧
    ∃ b, (encode i).head? = some b ∧ b &&& (row i).1 = (row i).2.1 ∧
      (∀ op, i = .illegal op → b ∉ legalOpcodes)

theorem write (dd : Byte) : Statement (.write dd) := fun _ => ⟨rfl, _, rfl, by simp [row], by simp⟩
theorem wait (n : BitVec 16) : Statement (.wait n) := fun _ => ⟨rfl, _, rfl, by simp [row], by simp⟩
theorem wait1 : Statement .wait1 := fun _ => ⟨rfl, _, rfl, by simp [row], by simp⟩
theorem endMark : Statement .endMark := fun _ => ⟨rfl, _, rfl, by simp [row], by simp⟩
theorem illegal (op : Byte) : Statement (.illegal op) := fun h => by
  refine ⟨rfl, _, rfl, by simp [row], ?_⟩
  rintro _ ⟨⟩
  simpa [Instr.wf] using h
theorem reset : Statement .reset := fun _ => ⟨rfl, _, rfl, by simp [row], by simp⟩
theorem load (file : List Byte) : Statement (.load file) := fun _ => ⟨rfl, _, rfl, by simp [row], by simp⟩
theorem tick : Statement .tick := fun _ => ⟨rfl, _, rfl, by simp [row], by simp⟩
theorem setTone (c : Int) (f : Rat) : Statement (.setTone c f) := fun _ => ⟨rfl, _, rfl, by simp [row], by simp⟩
theorem setVolume (c v : Int) : Statement (.setVolume c v) := fun _ => ⟨rfl, _, rfl, by simp [row], by simp⟩
theorem setNoise (m r : Int) : Statement (.setNoise m r) := fun _ => ⟨rfl, _, rfl, by simp [row], by simp⟩

theorem toneLatchByte_row : ∀ (c : BitVec 2) (r : BitVec 4), toneLatchByte c r &&& 0x90 = 0x80 := by decide
theorem toneDataByte_row : ∀ r : BitVec 6, toneDataByte r &&& 0xC0 = 0x00 := by decide
theorem volumeByte_row : ∀ (c : BitVec 2) (a : BitVec 4), volumeByte c a &&& 0x90 = 0x90 := by decide
theorem noiseByte_row : ∀ (m : BitVec 1) (r : BitVec 2), noiseByte m r &&& 0xF8 = 0xF0 := by decide

theorem toneLatch (c : BitVec 2) (r : BitVec 4) : Statement (.toneLatch c r) :=
  fun _ => ⟨rfl, _, rfl, by exact toneLatchByte_row c r, by simp⟩
theorem toneData (r : BitVec 6) : Statement (.toneData r) := fun _ => ⟨rfl, _, rfl, by exact toneDataByte_row r, by simp⟩
theorem volume (c : BitVec 2) (a : BitVec 4) : Statement (.volume c a) :=
  fun _ => ⟨rfl, _, rfl, volumeByte_row c a, by simp⟩
theorem noise (m : BitVec 1) (r : BitVec 2) : Statement (.noise m r) :=
  fun _ => ⟨rfl, _, rfl, noiseByte_row m r, by simp⟩

end Sys2Proof.Laws.TableRow
end

