-- ==== Sys2Proof/Laws/Step.lean ====
section
/-! SUPPORT. What one step can do, said once; runs of several steps peel one step at a time. -/

namespace Sys2Proof.Machine

/-- A stream command that answers a next state ran inside a tick (41_playback R146). -/
theorem whenRunning_eq_next {act : State → State} {s t : State} (h : whenRunning act s = .next t) :
    s.phase = .run ∧ t = act s := by
  rcases whenRunning_cases act s with ⟨hp, e⟩ | ⟨hp, e⟩ <;> rw [e] at h <;> cases h
  exact ⟨hp, rfl⟩

/-- A host operation that answers a next state was accepted (30_encoding R100). -/
theorem whenAccepting_eq_next {act : State → State} {s t : State} (h : whenAccepting act s = .next t) :
    s.accepting = true ∧ t = act s := by
  rcases whenAccepting_cases act s with ⟨hp, e⟩ | ⟨hp, e⟩ <;> rw [e] at h <;> cases h
  exact ⟨hp, rfl⟩

theorem toInstr_isHost (op : HostOp) : op.toInstr.isHost = true := by cases op <;> rfl

/-- The power-on emission writes the sink trace and uses up answers, and nothing else (70_reset_and_hazards R271). -/
theorem powerOnEmission_frame (s : State) :
    ∃ bs k, powerOnEmission s = { s with
        sinkTrace := s.sinkTrace ++ bs, bootPending := false,
        sinkAnswers := s.sinkAnswers.drop k, sinkCalls := s.sinkCalls + k } ∧ bs.length ≤ 4 ∧ bs.length ≤ k := by
  rcases powerOnEmission_cases s with ⟨-, e⟩ | ⟨k, hk, -, -, e⟩
  · exact ⟨_, _, e, by decide, le_refl _⟩
  · exact ⟨_, _, e, by simp [Config.resetSeq], by simp⟩

/-- A step is the power-on emission, a stream command, a failed fetch, nothing, or a host operation. -/
theorem step_cases {s t : State} (h : step s = .next t) :
    (s.bootPending = true ∧ t = powerOnEmission s ∧ nextInstr s = none) ∨
    (s.bootPending = false ∧ s.phase = .run ∧ ∃ i, i.isStream = true ∧
      decode (s.commandStream.drop s.cursor) = .ok i ∧ nextInstr s = some i ∧ exec i s = .next t) ∨
    (s.bootPending = false ∧ s.phase = .run ∧ ∃ e,
      decode (s.commandStream.drop s.cursor) = .error e ∧ nextInstr s = none ∧ t = fetchFault e s) ∨
    (s.bootPending = false ∧ s.phase = .idle ∧ s.inbox = [] ∧ nextInstr s = none ∧ t = s) ∨
    (s.bootPending = false ∧ s.phase = .idle ∧ ∃ op rest, s.inbox = op :: rest ∧
      nextInstr s = some op.toInstr ∧ exec op.toInstr (takeRequest rest s) = .next t) := by
  unfold step at h
  split at h
  · rename_i hb; cases h; exact .inl ⟨hb, rfl, by simp [nextInstr, hb]⟩
  · rename_i hb
    have hb : s.bootPending = false := by simpa using hb
    split at h
    · rename_i hp
      split at h
      · rename_i i hf
        exact .inr (.inl ⟨hb, hp, i, decode_isStream hf, hf, by simp [nextInstr, hb, hp, hf, Except.toOption], h⟩)
      · rename_i e hf; cases h
        exact .inr (.inr (.inl ⟨hb, hp, e, hf, by simp [nextInstr, hb, hp, hf, Except.toOption], rfl⟩))
    · rename_i hp
      split at h
      · rename_i hi; cases h
        exact .inr (.inr (.inr (.inl ⟨hb, hp, hi, by simp [nextInstr, hb, hp, hi], rfl⟩)))
      · rename_i op rest hi
        exact .inr (.inr (.inr (.inr ⟨hb, hp, op, rest, hi, by simp [nextInstr, hb, hp, hi], h⟩)))

/-- A failed fetch is a step of its own (41_playback R143, R144). -/
theorem step_fetchFault {s : State} {e : DecodeError} (hb : s.bootPending = false) (hp : s.phase = .run)
    (h : decode (s.commandStream.drop s.cursor) = .error e) : step s = .next (fetchFault e s) := by
  simp [step, hb, hp, fetch, h]

/-- A run begins with its first step. -/
theorem run_succ {s t : State} (k : Nat) (h : step s = .next t) : core.run (k + 1) s = core.run k t := by
  have hc : core.step s = .next t := h
  simp only [Host.Core.run, hc]

end Sys2Proof.Machine
end

