-- ==== Sys2Proof/Tests/Slice0.lean ====
section
/-! SUPPORT. Tests of single steps, expected values from the spec's words, tables and vectors (cited at each group), and
a witness for the hypotheses of every statement. -/

namespace Sys2Proof.Tests

open Sys2Proof.Machine

/-- Powered on, no tick in progress, the sink about to answer as listed. -/
def idle (answers : List SinkAnswer) : State := { State.reset with bootPending := false, sinkAnswers := answers }

/-- The first command of a tick is about to run (41_playback R141), the sink taking four bytes. -/
def running (stream : List Byte) (cursor : Nat) : State :=
  { idle [.ok, .ok, .ok, .ok] with
    commandStream := stream, cursor := cursor, phase := .run, pendingTicks := -1 }

/-- What a step leaves, as far as the test looks. -/
def after {α : Type} (o : Host.Outcome State Fault Refusal) (look : State → α) : Option α :=
  match o with
  | .next t => some (look t)
  | .fault _ | .refused _ => none

/-- The sink trace and the responses. -/
def outs (s : State) : List Byte × List Response := (s.sinkTrace, s.responses)

/-- A header with these words and no stream (95_test_vectors `HDR`). -/
def header (eof loopLow : Byte) : List Byte :=
  [0x56, 0x67, 0x6D, 0x20, eof, 0, 0, 0, 0x50, 1, 0, 0, 0x99, 0x9E, 0x36, 0] ++
  [0, 0, 0, 0, 0, 0, 0, 0, 0, 0, 0, 0, loopLow, 0, 0, 0] ++ List.replicate 32 0

/-! ### Well-formed terms: 30_encoding R85, R90 -/

theorem test_wf_refuses_legal_opcodes_as_illegal :
    [0x50, 0x61, 0x62, 0x66].map (fun b => (Instr.illegal b).wf) = [false, false, false, false] := by decide
theorem test_wf_refuses_tone_latch_channel_3 : (Instr.toneLatch 3 0).wf = false := by decide
theorem test_wf_takes_illegal_4F : (Instr.illegal 0x4F).wf = true := by decide

/-! ### Decoding: words written out from 30_encoding R81, R85, R90, R91, R93, R94, R98 -/

theorem test_decode_write : decode [0b01010000, 0b10011111, 0x66] = .ok (.write 0x9F) := by decide
theorem test_decode_wait : decode [0b01100001, 0b11011111, 0b00000010] = .ok (.wait 735) := by decide
theorem test_decode_wait1 : decode [0b01100010] = .ok .wait1 := by decide
theorem test_decode_end : decode [0b01100110] = .ok .endMark := by decide
theorem test_decode_illegal : decode [0b01100011, 0x66] = .ok (.illegal 0x63) := by decide
theorem test_decode_tone_latch : chipForms 0b11001110 = [.toneLatch 2 0b1110] := by decide
theorem test_decode_tone_data : chipForms 0b00111111 = [.toneData 0b111111] := by decide
theorem test_decode_volume : chipForms 0b10111001 = [.volume 1 0b1001] := by decide
theorem test_decode_noise : Instr.noise 1 0b10 ∈ chipForms 0b11110110 := by decide
/-- R96: `0x40` to `0x7F` and `0xE0` to `0xEF` are no chip form. -/
theorem test_decode_no_chip_form : [0x40, 0x7F, 0xE0, 0xEF].map chipForms = [[], [], [], []] := by decide
theorem test_decode_host_labels : [0, 1, 2, 3, 4, 5, 6].map (decodeTableWord 8) =
    [some .reset, some (.load []), some .tick, some (.setTone 0 0), some (.setVolume 0 0), some (.setNoise 0 0),
     some (.toneData 6)] := by decide
theorem test_table_words : [decodeTableWord 16 0x9F50, decodeTableWord 24 0x02DF61, decodeTableWord 8 0x62,
    decodeTableWord 8 0x66, decodeTableWord 8 0x4F, decodeTableWord 8 0x80, decodeTableWord 8 0x3F,
    decodeTableWord 8 0x90, decodeTableWord 8 0xF0] =
    [some (.write 0x9F), some (.wait 735), some .wait1, some .endMark, some (.illegal 0x4F), some (.toneLatch 0 0),
     some (.toneData 0x3F), some (.volume 0 0), some (.noise 0 0)] := by decide
/-- The opcode alone: operand bytes of zeros (the table's short rows). -/
theorem test_table_short_rows : (decodeTableWord 8 0x50, decodeTableWord 8 0x61) =
    (some (.write 0), some (.wait 0)) := by decide
theorem test_fetch_word : [nextInstr (State.reset.withFetchWord 16 0x9F50), nextInstr (State.reset.withFetchWord 8 0x4F),
    nextInstr (State.reset.withFetchWord 8 0x02), nextInstr (State.reset.withFetchWord 8 0x8E)] =
    [some (.write 0x9F), some (.illegal 0x4F), some .tick, some (.write 0x8E)] := by decide

/-! ### Stream commands: 41_playback R145 to R150, 95_test_vectors W1 to W7, T1 to T17 -/

theorem test_write_emits : after (step (running [0x50, 0x01, 0x66] 0)) (fun t => (t.sinkTrace, t.cursor, t.phase)) =
    some ([0x01], 2, .run) := by decide
theorem test_write_refused : after (step { running [0x50, 0x01, 0x66] 0 with sinkAnswers := [.ioError] })
    (fun t => (outs t, t.cursor, t.fault, t.phase)) =
    some (([], [.fault (.playback .sinkIo)]), 0, some .sinkIo, .idle) := by decide
theorem test_wait_samples : [0, 734, 735, 1469, 1470, 65535, 882].map waitTicks = [0, 0, 1, 1, 2, 89, 1] := by decide
theorem test_wait_reads_little_endian : after (step (running [0x61, 0xBE, 0x05] 0))
    (fun t => (t.pendingTicks, t.cursor, t.phase, t.responses)) = some (1, 3, .idle, [.ok]) := by decide
theorem test_wait1 : after (step (running [0x62] 0)) (fun t => (t.pendingTicks, t.cursor, t.phase)) =
    some (0, 1, .idle) := by decide
theorem test_end_without_loop : after (step (running [0x50, 0x01, 0x66] 2))
    (fun t => (t.cursor, t.ended, t.pendingTicks, t.responses)) = some (3, true, -1, [.ok]) := by decide
theorem test_end_negative_loop : after (step { running [0x62, 0x66] 1 with loopOffset := some (-20) })
    (fun t => (t.cursor, t.ended, t.fault)) = some (1, false, some (.truncatedStream (-20))) := by decide
theorem test_illegal : after (step (running [0x50, 0x11, 0x4F, 0x00, 0x66] 2)) (fun t => (t.cursor, t.fault, t.responses)) =
    some (2, some (.unknownCommand 2 0x4F), [.fault (.playback (.unknownCommand 2 0x4F))]) := by decide
theorem test_missing_operand : after (step (running [0x61, 0xDF] 0)) (fun t => (t.cursor, t.pendingTicks, t.fault)) =
    some (0, -1, some (.truncatedStream 2)) := by decide

/-! ### Host operations: 40_loader R134, 41_playback R141, 42_register_encoder R181, 95_test_vectors -/

theorem test_power_on : after (step { State.reset with sinkAnswers := [.ok, .ok, .ok, .ok] })
    (fun t => (outs t, t.accepting)) = some (([0x9F, 0xBF, 0xDF, 0xFF], []), true) := by decide
theorem test_reset_refused_third : after (exec .reset { idle [.ok, .ok, .ioError] with cursor := 7 })
    (fun t => (outs t, t.cursor, t.fault)) =
    some (([0x9F, 0xBF], [.fault (.playback .sinkIo)]), 7, none) := by decide
theorem test_reset : after (exec .reset { idle [.ok, .ok, .ok, .ok] with cursor := 7, pendingTicks := 1, ended := true })
    (fun t => (t.sinkTrace, t.cursor, t.pendingTicks, t.ended)) =
    some ([0x9F, 0xBF, 0xDF, 0xFF], 0, 1, true) := by decide
theorem test_load : after (exec (.load (header 0x45 0x26 ++ [0x50, 0x90, 0x61, 0xBE, 0x05, 0x50, 0x9F, 0x62, 0x66]))
    (idle [])) (fun t => (t.commandStream, t.loopOffset, t.cursor, t.responses)) =
    some ([0x50, 0x90, 0x61, 0xBE, 0x05, 0x50, 0x9F, 0x62, 0x66], some 2, 0, [.ok]) := by decide
/-- R129: the four tag bytes alone fail at step 2. -/
theorem test_load_tag_only : after (exec (.load [0x56, 0x67, 0x6D, 0x20]) (idle [])) (fun t => (t.N, t.responses)) =
    some (0, [.fault .truncatedFile]) := by decide
theorem test_tick_idles : after (exec .tick { idle [] with pendingTicks := 1, cursor := 5 })
    (fun t => (t.pendingTicks, t.cursor, t.phase, t.responses)) = some (0, 5, .idle, [.ok]) := by decide
theorem test_tick_interprets : after (exec .tick (idle [])) (fun t => (t.pendingTicks, t.phase, t.responses)) =
    some (-1, .run, []) := by decide

/-! ### The encoder: 42_register_encoder R172 to R184, 95_test_vectors E1 to E25 -/

theorem test_tone_registers : [440, 110, 1000, 20000, 1, 111861].map toneReg = [254, 1016, 111, 5, 1021, 0] := by
  decide +kernel
theorem test_tone_break_points : [(3579545 / 32 : Rat), 55930.390625, 55930.4, 3579545 / 32672, 109.45, 110.35, 261.63].map
    toneReg = [1, 2, 1, 1021, 1021, 1013, 427] := by decide +kernel
theorem test_set_tone : after (exec (.setTone 1 440) (idle [.ok, .ok])) outs = some ([0xAE, 0x0F], [.ok]) := by
  decide +kernel
theorem test_set_tone_out_of_range : [after (exec (.setTone 3 440) (idle [.ok])) outs,
    after (exec (.setTone 0 0) (idle [.ok])) outs, after (exec (.setTone (-1) 440) (idle [.ok])) outs] =
    List.replicate 3 (some ([], [.fault .outOfRangeParameter])) := by decide +kernel
theorem test_set_volume : [0, 7, 8, 9, 15].map (fun v => after (exec (.setVolume 2 v) (idle [.ok])) State.sinkTrace) =
    [some [0xDF], some [0xD8], some [0xD7], some [0xD6], some [0xD0]] := by decide
theorem test_set_volume_out_of_range : [(4, 0), (-1, 0), (0, 16), (0, -1)].map
    (fun p => after (exec (.setVolume p.1 p.2) (idle [.ok])) outs) =
    List.replicate 4 (some ([], [.fault .outOfRangeParameter])) := by decide
theorem test_set_noise : [(0, 0), (0, 3), (1, 0), (1, 3)].map
    (fun p => after (exec (.setNoise p.1 p.2) (idle [.ok])) State.sinkTrace) =
    [some [0xF0], some [0xF3], some [0xF4], some [0xF7]] := by decide
theorem test_set_noise_out_of_range : [(2, 0), (0, 4), (-1, 0), (0, -1)].map
    (fun p => after (exec (.setNoise p.1 p.2) (idle [.ok])) outs) =
    List.replicate 4 (some ([], [.fault .outOfRangeParameter])) := by decide
/-- 95_test_vectors: with the base instantiated as `0xE0`. -/
theorem test_noise_over_another_base : [0, 1, 2, 3].map (noiseByteOver 0xE0 1) = [0xE4, 0xE5, 0xE6, 0xE7] := by decide
theorem test_tone_latch : after (exec (.toneLatch 1 14) (idle [.ok])) outs = some ([0xAE], []) := by decide
theorem test_tone_data : after (exec (.toneData 15) (idle [.ok])) outs = some ([0x0F], []) := by decide
theorem test_volume : after (exec (.volume 3 15) (idle [.ok])) outs = some ([0xFF], []) := by decide
theorem test_noise : after (exec (.noise 1 3) (idle [.ok])) outs = some ([0xF7], []) := by decide

/-! ### Faults and the debug port: 60_exceptions R230, 93_implementation_defined U8 -/

theorem test_fault_codes : [BlockFault.invalidHeader, .unsupportedVersion 0, .unsupportedClock 0, .truncatedFile, .endOfSong,
    .playback (.unknownCommand 0 0), .playback (.truncatedStream 0), .outOfRangeParameter, .playback .sinkIo].map
    BlockFault.code = [1, 2, 3, 4, 5, 6, 7, 8, 10] := by decide
theorem test_no_debug_port : debugPort (idle []) = none := by decide
theorem test_debug_port_reads : debugRead true { idle [] with cursor := 4 } = some (4, 0, false, none) := by decide

/-- U7: the limit holds for files alone, the host's refusal leaves no response. -/
theorem test_host_refuses_a_longer_file : ((idle []).hostRequestsWithin (some 4) [.load [1, 2, 3, 4, 5], .tick, .load [1, 2, 3, 4]],
    (idle []).hostRequestsWithin none [.load [1, 2, 3, 4, 5]]) =
    ({ idle [] with inbox := [.tick, .load [1, 2, 3, 4]] }, { idle [] with inbox := [.load [1, 2, 3, 4, 5]] }) := by decide

/-! ### The NoteSequencer: 43_note_sequencer_host R209, R211, R212, R214 -/

theorem test_note_table_octave_2 : (List.range 12).map (fun i => toneReg (noteFrequency 2 i)) =
    [1021, 1021, 1021, 1021, 1021, 1021, 1021, 1021, 1021, 1017, 959, 906] := by decide +kernel
theorem test_note_table_octave_4 : (List.range 12).map (fun i => toneReg (noteFrequency 4 i)) =
    [427, 403, 380, 359, 339, 320, 302, 285, 269, 254, 239, 226] := by decide +kernel
theorem test_note_table_octave_9 : (List.range 12).map (fun i => toneReg (noteFrequency 9 i)) =
    [13, 12, 11, 11, 10, 10, 9, 8, 8, 7, 7, 7] := by decide +kernel
theorem test_script_tokens : scan ['V', '0', ' ', 'O', '4', ' ', 'Q', ' ', 'A', ',', ' ', 'U', '5'] =
    [.voice 0, .octave 4, .duration 16, .note 9, .setVol 5] := by decide
theorem test_script_sharps : scan ['C', '#', 'E', '#', 'C'] = [.note 1, .note 4, .unknown] := by decide
theorem test_script_operations : requestsOf (playTokens ⟨none, none, none⟩
    [.voice 0, .octave 4, .duration 16, .note 9, .setVol 5]).1 =
    [.setTone 0 (noteFrequency 4 9), .setVolume 0 9, .setVolume 0 0, .setVolume 0 5, .setVolume 0 0] := by decide +kernel
theorem test_script_unset_default : (playTokens ⟨none, none, none⟩ [.setVol 5]).2 = .unsetDefault := by decide
theorem test_script_fault_has_no_panic_silence :
    playTokens ⟨some 0, none, none⟩ [.setVol 5, .unknown] = ([.issue (.setVolume 0 5)], .unknownToken) := by decide

/-! ### Witnesses: states and operands that meet the hypotheses of each statement, clause by clause -/

theorem witness_decode_inverts_encode :
    ((Instr.wait 0xFFFF).wf = true ∧ (Instr.wait 0xFFFF).isStream = true) ∧
    ((Instr.illegal 0x00).wf = true ∧ (Instr.illegal 0x00).isStream = true) := by decide
theorem witness_decoded_prefix : decode [0x61, 0xFF, 0xFF, 0x00] = .ok (.wait 0xFFFF) := by decide
theorem witness_decode_fails : (decode [], decode [0x50], decode [0x61], decode [0x61, 0x00]) =
    (.error .noOpcode, .error (.missingOperand 1), .error (.missingOperand 1), .error (.missingOperand 2)) := by decide
theorem witness_step_runs : (running [0x62] 0).bootPending = false ∧ (running [0x62] 0).phase = .run ∧
    decode ((running [0x62] 0).commandStream.drop (running [0x62] 0).cursor) = .ok .wait1 := by decide
theorem witness_step_accepts : { idle [] with inbox := [.tick] }.accepting = true ∧
    { idle [] with inbox := [.tick] }.inbox = .tick :: [] ∧ (idle []).accepting = true ∧ (idle []).inbox = [] := by decide
theorem witness_power_on_takes : { State.reset with sinkAnswers := [.ok, .ok, .ok, .ok] }.bootPending = true ∧
    sinkTakes 4 { State.reset with sinkAnswers := [.ok, .ok, .ok, .ok] } := by unfold sinkTakes answerAt; decide
theorem witness_power_on_refused :
    (sinkTakes 0 { State.reset with sinkAnswers := [.ioError] } ∧
      answerAt { State.reset with sinkAnswers := [.ioError] } 0 = .ioError) ∧
    (sinkTakes 3 { State.reset with sinkAnswers := [.ok, .ok, .ok, .ioError] } ∧
      answerAt { State.reset with sinkAnswers := [.ok, .ok, .ok, .ioError] } 3 = .ioError) := by
  unfold sinkTakes answerAt; decide
theorem witness_step_inside_a_tick : (running [0x62] 0).phase = .run ∧ ∃ t, step (running [0x62] 0) = .next t :=
  ⟨rfl, _, rfl⟩
theorem witness_meanings_stop : Instr.reset.isHost = true ∧ (running [] 0).accepting = false ∧
    State.reset.accepting = false ∧ Instr.wait1.isStream = true ∧ (idle []).phase = .idle := by decide
theorem witness_write : sinkTakes 1 (running [0x50, 0x01] 0) ∧
    answerAt { running [0x50, 0x01] 0 with sinkAnswers := [.ioError] } 0 = .ioError := by
  unfold sinkTakes answerAt; decide
theorem witness_end :
    ({ running [0x66] 0 with loopOffset := some ((0 : Nat) : Int) }.loopOffset = some ((0 : Nat) : Int) ∧
      0 < (running [0x66] 0).N) ∧
    (((1 : Int) < 0 ∨ ((running [0x66] 0).N : Int) ≤ 1) ∧ ((-1 : Int) < 0 ∨ ((running [0x66] 0).N : Int) ≤ -1)) ∧
    (running [0x66] 0).loopOffset = none := by decide
theorem witness_illegal : readByte (running [0x4F] 0) (running [0x4F] 0).cursor = some 0x4F ∧
    readByte (running [0xFF] 0) (running [0xFF] 0).cursor = some 0xFF := by decide
theorem witness_fetch_past_the_end : (running [] 0).N ≤ (running [] 0).cursor ∧
    (running [0x62] 1).N ≤ (running [0x62] 1).cursor := by decide
theorem witness_missing_operand :
    (readByte (running [0x50] 0) 0 = some 0x50 ∧ (running [0x50] 0).N ≤ 0 + 1) ∧
    (readByte (running [0x61] 0) 0 = some 0x61 ∧ (running [0x61] 0).N ≤ 0 + 2) ∧
    (readByte (running [0x61, 0xDF] 0) 0 = some 0x61 ∧ (running [0x61, 0xDF] 0).N ≤ 0 + 2) ∧
    (readByte (running [0x4F] 0) 0 = some 0x4F ∧ (running [0x4F] 0).N = 0 + 1 ∧ (Instr.illegal 0x4F).wf = true) := by
  decide
theorem witness_stream_frame : Instr.endMark.isStream = true ∧ ∃ t, exec .endMark (running [0x66] 0) = .next t :=
  ⟨rfl, _, rfl⟩
theorem witness_tick : (idle []).accepting = true ∧ { idle [] with fault := some .sinkIo }.fault = some .sinkIo ∧
    { idle [] with ended := true }.ended = true ∧ (idle []).fault = none ∧ (idle []).ended = false ∧
    0 < { idle [] with pendingTicks := 1 }.pendingTicks ∧ (idle []).pendingTicks ≤ 0 := by decide
theorem witness_reset_and_sound_operations : (idle [.ok, .ok, .ok, .ok]).accepting = true ∧
    sinkTakes 4 (idle [.ok, .ok, .ok, .ok]) ∧ sinkTakes 2 (idle [.ok, .ok, .ok, .ok]) ∧
    sinkTakes 1 (idle [.ok, .ok, .ok, .ok]) := by unfold sinkTakes answerAt; decide
theorem witness_reset_and_sound_operations_refused :
    (sinkTakes 0 (idle [.ioError]) ∧ answerAt (idle [.ioError]) 0 = .ioError) ∧
    (answerAt (idle [.ok, .ioError]) 0 = .ok ∧ answerAt (idle [.ok, .ioError]) 1 = .ioError) ∧
    (sinkTakes 3 (idle [.ok, .ok, .ok, .ioError]) ∧ answerAt (idle [.ok, .ok, .ok, .ioError]) 3 = .ioError) := by
  unfold sinkTakes answerAt; decide
theorem witness_load_commits : (header 0x3C 0x23).take 4 = [0x56, 0x67, 0x6D, 0x20] ∧
    u32le (header 0x3C 0x23) 8 = some 0x00000150 ∧ u32le (header 0x3C 0x23) 12 = some 3579545 ∧
    u32le (header 0x3C 0x23) 4 = some 0x3C ∧ (0x3C#32).toNat + 4 ≤ (header 0x3C 0x23).length ∧
    u32le (header 0x3C 0x23) 0x1C = some 0x23 ∧ u32le (header 0x3C 0) 0x1C = some 0 := by decide
theorem witness_bad_tag : ¬ [0x56, 0x67, 0x6D, 0x20] <+: ([] : List Byte) ∧
    ¬ [0x56, 0x67, 0x6D, 0x20] <+: ([0x56, 0x67, 0x6D] : List Byte) ∧
    ¬ [0x56, 0x67, 0x6D, 0x20] <+: ([0x56, 0x67, 0x6D, 0x21] : List Byte) := by decide
theorem witness_load_violations :
    [0x56, 0x67, 0x6D, 0x20] <+: (header 0x3D 0).take 11 ∧ ((header 0x3D 0).take 11).length < 12 ∧
    u32le ([0x56, 0x67, 0x6D, 0x20] ++ [0, 0, 0, 0] ++ [0x51, 1, 0, 0]) 8 = some 0x151 ∧
    u32le ((header 0x3D 0).take 15) 8 = some 0x150 ∧ ((header 0x3D 0).take 15).length < 16 ∧
    u32le ((header 0x3D 0).take 12 ++ [0x99, 0x9E, 0x36, 0x80]) 12 = some 0x80369E99 ∧
    (u32le (header 0x3D 0) 12 = some 3579545 ∧ u32le (header 0x3D 0) 4 = some 0x3D ∧
      (header 0x3D 0).length < (0x3D#32).toNat + 4) ∧
    (u32le ((header 0x1B 0).take 0x1F) 12 = some 3579545 ∧ u32le ((header 0x1B 0).take 0x1F) 4 = some 0x1B ∧
      (0x1B#32).toNat + 4 ≤ ((header 0x1B 0).take 0x1F).length ∧ ((header 0x1B 0).take 0x1F).length < 0x20) := by decide
theorem witness_loaded_stream : parseVgm (header 0x3D 0x24 ++ [0x66]) = .ok ⟨[0x66], some 0⟩ ∧
    u32le (header 0x3D 0x24 ++ [0x66]) 4 = some 0x3D := by decide
/-- Repeated operations are issued as often as they are wanted; a file of one byte more than the limit is not. -/
theorem witness_repeated_requests :
    ((idle []).hostRequestsWithin (some 1) [.tick, .load [1], .tick, .load [1, 2], .load [1], .tick]).inbox =
    [.tick, .load [1], .tick, .load [1], .tick] := by decide
/-- The host of this instance issues what no limit touches, whatever the limit is. -/
theorem witness_instance_requests : ((idle []).hostRequests [.tick, .tick, .reset]).inbox = [.tick, .tick, .reset] := by
  decide
/-- A file of exactly the limit is issued and accepted. -/
theorem witness_file_within_the_limit : hostIssues (some 0x41) (.load (header 0x3D 0x24 ++ [0x66])) = true ∧
    hostIssues (some 0x40) (.load (header 0x3D 0x24 ++ [0x66])) = false ∧
    parseVgm (header 0x3D 0x24 ++ [0x66]) = .ok ⟨[0x66], some 0⟩ := by decide
theorem witness_ignored_header_bytes : ((header 0x3C 0).set 0x3F 1).length = (header 0x3C 0).length ∧
    ∀ i, ¬ (0x10 ≤ i ∧ i < 0x1C) → ¬ (0x20 ≤ i ∧ i < 0x40) → ((header 0x3C 0).set 0x3F 1)[i]? = (header 0x3C 0)[i]? := by
  refine ⟨rfl, fun i _ h => ?_⟩
  rw [List.getElem?_set_ne]
  omega
theorem witness_header_word : ([0x99, 0x9E, 0x36, 0x80] : List Byte)[0]? = some 0x99 ∧
    ([0x99, 0x9E, 0x36, 0x80] : List Byte)[0 + 3]? = some 0x80 := by decide
theorem witness_tone_formula : (0 : Rat) < 440 ∧ (3579545 : Rat) / 32 < 111861 ∧
    (1 / 2 : Rat) ≤ 3579545 / (32 * 1022) := by norm_num
theorem witness_set_tone : ¬ ((0 : Int) ≤ 3 ∧ (3 : Int) ≤ 2 ∧ (0 : Rat) < 440) ∧
    ¬ ((0 : Int) ≤ 0 ∧ (0 : Int) ≤ 2 ∧ (0 : Rat) < 0) ∧ ((0 : Int) ≤ 2 ∧ (2 : Int) ≤ 2 ∧ (0 : Rat) < 440) ∧
    ((254 : Nat) : Int) = min ⌊(3579545 : Rat) / (440 * 32)⌋ 1021 ∧
    ((1021 : Nat) : Int) = min ⌊(3579545 : Rat) / (1 * 32)⌋ 1021 := by
  norm_num
theorem witness_set_volume : ¬ ((0 : Int) ≤ 4 ∧ (4 : Int) ≤ 3 ∧ (0 : Int) ≤ 0 ∧ (0 : Int) ≤ 15) ∧
    ¬ ((0 : Int) ≤ 3 ∧ (3 : Int) ≤ 3 ∧ (0 : Int) ≤ 16 ∧ (16 : Int) ≤ 15) ∧
    ((0 : Int) ≤ 3 ∧ (3 : Int) ≤ 3 ∧ (0 : Int) ≤ 15 ∧ (15 : Int) ≤ 15) := by decide
theorem witness_set_noise : ¬ ((0 : Int) ≤ 2 ∧ (2 : Int) ≤ 1 ∧ (0 : Int) ≤ 0 ∧ (0 : Int) ≤ 3) ∧
    ¬ ((0 : Int) ≤ 1 ∧ (1 : Int) ≤ 1 ∧ (0 : Int) ≤ 4 ∧ (4 : Int) ≤ 3) ∧
    ((0 : Int) ≤ 1 ∧ (1 : Int) ≤ 1 ∧ (0 : Int) ≤ 3 ∧ (3 : Int) ≤ 3) := by decide
theorem witness_encoder_reads_no_state : (idle [.ok]).accepting = true ∧
    { idle [.ok] with ended := true, commandStream := [0x66] }.accepting = true ∧
    (idle [.ok]).sinkAnswers = { idle [.ok] with ended := true, commandStream := [0x66] }.sinkAnswers ∧
    (idle [.ok]).sinkCalls = { idle [.ok] with ended := true, commandStream := [0x66] }.sinkCalls := by decide
theorem witness_chip_forms : (Instr.toneLatch 2 15).isChip = true ∧ (∃ t, exec (.toneLatch 2 15) (idle [.ok]) = .next t) ∧
    answerAt (idle [.ioError]) 0 = .ioError ∧ (idle [.ioError]).phase = .idle :=
  ⟨rfl, ⟨_, rfl⟩, rfl, rfl⟩
theorem witness_host_frame : Instr.tick.isHost = true ∧ ∃ t, exec .tick (idle []) = .next t := ⟨rfl, _, rfl⟩
theorem witness_track_is_immutable : (∃ t, step { idle [] with inbox := [.reset] } = .next t) ∧
    ∀ file, nextInstr { idle [] with inbox := [.reset] } ≠ some (.load file) :=
  ⟨⟨_, rfl⟩, fun _ h => by cases h⟩

/-- An ended track, a TICK waiting. -/
def endedState : State := { idle [] with
  commandStream := [0x66], cursor := 1, ended := true, pendingTicks := -1, inbox := [.tick] }

theorem witness_ended : Inv endedState ∧ endedState.ended = true ∧ (∃ t, step endedState = .next t) ∧
    ∀ file, nextInstr endedState ≠ some (.load file) := by
  refine ⟨⟨by decide, by decide, by decide, by decide, by decide, ?_, by decide⟩, rfl, ⟨_, rfl⟩, fun _ h => by cases h⟩
  rintro l ⟨⟩

theorem witness_ended_reset :
    nextInstr { endedState with inbox := [.reset], sinkAnswers := [.ok, .ok, .ok, .ok] } = some .reset ∧
    sinkTakes 4 { endedState with inbox := [.reset], sinkAnswers := [.ok, .ok, .ok, .ok] } := by
  unfold sinkTakes answerAt; decide

/-- A latched fault, a TICK waiting. -/
def faultedState : State := { idle [] with
  commandStream := [0x00], fault := some (.unknownCommand 0 0), pendingTicks := -1, inbox := [.tick] }

theorem witness_faulted : Inv faultedState ∧ faultedState.fault = some (.unknownCommand 0 0) ∧
    (∃ t, step faultedState = .next t) ∧ nextInstr faultedState = some .tick := by
  refine ⟨⟨by decide, by decide, by decide, by decide, by decide, ?_, by decide⟩, rfl, ⟨_, rfl⟩, rfl⟩
  rintro l ⟨⟩
theorem witness_invariant : Inv (running [0x61, 0xFF, 0xFF] 0) ∧ ∃ t, step (running [0x61, 0xFF, 0xFF] 0) = .next t := by
  refine ⟨⟨by decide, by decide, by decide, by decide, by decide, ?_, by decide⟩, _, rfl⟩
  rintro l ⟨⟩
theorem witness_balanced : Account.balanced ⟨0, 1⟩ (running [0x62] 0) := fun _ _ => by decide
theorem witness_looping_track : { running [0x62, 0x66] 1 with loopOffset := some ((0 : Nat) : Int) }.loopOffset =
      some ((0 : Nat) : Int) ∧ 0 < (running [0x62, 0x66] 1).N ∧ (running [0x62, 0x66] 1).ended = false ∧
    (∃ t, step { running [0x62, 0x66] 1 with loopOffset := some ((0 : Nat) : Int) } = .next t) ∧
    nextInstr { running [0x62, 0x66] 1 with loopOffset := some ((0 : Nat) : Int) } = some .endMark :=
  ⟨rfl, by decide, rfl, ⟨_, rfl⟩, rfl⟩
/-- 95_test_vectors T11: a loop with a wait. -/
theorem witness_loop_has_wait : loopHasWait { running [0x62, 0x66] 1 with loopOffset := some ((0 : Nat) : Int) } = true := by
  decide
/-- 95_test_vectors T13: a loop with none. -/
theorem witness_loop_has_no_wait :
    loopHasWait { running [0x50, 0x90, 0x66] 0 with loopOffset := some ((0 : Nat) : Int) } = false ∧
    { running [0x50, 0x90, 0x66] 0 with loopOffset := some ((0 : Nat) : Int) }.cursor = 0 ∧
    sinkTakes 4 { running [0x50, 0x90, 0x66] 0 with loopOffset := some ((0 : Nat) : Int) } := by
  unfold sinkTakes answerAt; decide
/-- 43_note_sequencer_host R210: the empty script. -/
theorem witness_empty_script : play "" = ([.issue (.setVolume 0 0)], .done) := by decide

end Sys2Proof.Tests
end

section

namespace Sys2Proof.Machine

/-- The command stream holds no byte of the header (40_loader R125). -/
theorem streamOf_length_le (file : List Byte) (eofOffset : Word32) :
    (streamOf file eofOffset).length ≤ file.length - 0x40 := by
  simp only [streamOf, Config.streamBase, List.length_drop, List.length_take]
  omega

/-- 20_memory R57: an accepted file is at least 0x40 bytes longer than its stream, or the stream is empty. -/
theorem parseVgm_commandStream_length_le {file : List Byte} {track : Track} (h : parseVgm file = .ok track) :
    track.commandStream.length ≤ file.length - 0x40 := by
  obtain ⟨eofOffset, loopRaw, -, -, -, rfl, -⟩ := parseVgm_ok h
  exact streamOf_length_le file eofOffset

/-- Settles O57: the filter of the statement agrees with `hostIssues` at every operation, and the stream of a file within
the limit is shorter by the header. -/
theorem filesBeyondTheLimitNeverReachTheBlock : Obligations.FilesBeyondTheLimitNeverReachTheBlock := by
  unfold Obligations.FilesBeyondTheLimitNeverReachTheBlock
  refine ⟨fun limit ops s => ?_, fun ops s => rfl, fun limit file track longest hlimit hissues hparse => ?_⟩
  · refine congrArg (fun issued => { s with inbox := s.inbox ++ issued }) (List.filter_congr fun op _ => ?_)
    cases op with
    | load file => cases limit <;> rfl
    | _ => rfl
  · have hfile : file.length ≤ longest := (hostIssues_load_iff limit file).mp hissues longest hlimit
    calc track.commandStream.length
      _ ≤ file.length - 0x40 := parseVgm_commandStream_length_le hparse
      _ ≤ longest - 0x40 := Nat.sub_le_sub_right hfile 0x40

end Sys2Proof.Machine
end

section

/-! ### What an instruction that answers a next state has done

`StreamStep` and `HostStep` list the outcomes of the stream commands and of the host operations, one constructor each;
`exec_streamStep` and `exec_hostStep` tie them to `exec`, and `step_outcome` to a step. The frames, the invariant and the
account of ticks are read off these outcomes. -/

namespace Sys2Proof.Machine

/-- A playback fault taken inside a tick: latched and answered (60_exceptions R240, R241). -/
def latchAndAnswer (f : PlaybackFault) (s : State) : State :=
  respond (.fault (.playback f)) { s with fault := some f }

theorem raisePlayback_eq_latchAndAnswer {f : PlaybackFault} {s : State} (h : s.phase = .run) :
    raisePlayback f s = latchAndAnswer f s :=
  raisePlayback_run h

theorem fetchFault_eq_latchAndAnswer {e : DecodeError} {s : State} (h : s.phase = .run) :
    fetchFault e s = latchAndAnswer (.truncatedStream (truncationOffset e s)) s :=
  raisePlayback_run h

/-- The outcomes of a stream command inside a tick (41_playback R145 to R150). -/
inductive StreamStep (s : State) : Instr → State → Prop
  | written (dd : Byte) : sinkTakes 1 s → StreamStep s (.write dd) (advance 2 (wroteAll [dd] s))
  | writeRefused (dd : Byte) : answerAt s 0 = .ioError →
      StreamStep s (.write dd) (latchAndAnswer .sinkIo (wroteUntilRefusal [] s))
  | waited (n : BitVec 16) : StreamStep s (.wait n) (pause (waitTicks n) 3 s)
  | waitedOne : StreamStep s .wait1 (pause 1 1 s)
  | jumped (l : Int) : s.loopOffset = some l → 0 ≤ l → l < s.N →
      StreamStep s .endMark { s with cursor := l.toNat }
  | loopOutOfRange (l : Int) : s.loopOffset = some l → ¬ (0 ≤ l ∧ l < s.N) →
      StreamStep s .endMark (latchAndAnswer (.truncatedStream l) s)
  | finished : s.loopOffset = none → StreamStep s .endMark (respond .ok (setEnded (advance 1 s)))
  | rejected (op : Byte) : StreamStep s (.illegal op) (latchAndAnswer (.unknownCommand s.cursor op) s)

/-- The operations that write the sound registers from operands (30_encoding R98). -/
def isSetOperation : Instr → Bool
  | .setTone _ _ | .setVolume _ _ | .setNoise _ _ => true
  | _ => false

/-- The outcomes of an accepted host operation (40_loader R128, R132, 41_playback R140, R141, 42_register_encoder R171 to
R182). Of the frame of a SET operation only the length is said: its bytes touch no item of the block. -/
inductive HostStep (s : State) : Instr → State → Prop
  | resetDone : sinkTakes 4 s → HostStep s .reset (rewind (wroteAll Config.resetSeq s))
  | resetRefused (k : Nat) : k < 4 → sinkTakes k s → answerAt s k = .ioError →
      HostStep s .reset (respond (.fault (.playback .sinkIo)) (wroteUntilRefusal (Config.resetSeq.take k) s))
  | loaded (file : List Byte) (track : Track) : parseVgm file = .ok track →
      HostStep s (.load file) (respond .ok (commitTrack track s))
  | loadRejected (file : List Byte) (f : BlockFault) : parseVgm file = .error f →
      HostStep s (.load file) (respond (.fault f) s)
  | tickFaulted (f : PlaybackFault) : s.fault = some f → HostStep s .tick (respond (.fault (.playback f)) s)
  | tickEnded : s.fault = none → s.ended = true → HostStep s .tick (respond (.fault .endOfSong) s)
  | tickWaited : s.fault = none → s.ended = false → 0 < s.pendingTicks →
      HostStep s .tick (respond .ok { s with pendingTicks := s.pendingTicks - 1 })
  | tickStarted : s.fault = none → s.ended = false → s.pendingTicks ≤ 0 →
      HostStep s .tick { s with pendingTicks := s.pendingTicks - 1, phase := .run }
  | setOutOfRange (i : Instr) : isSetOperation i = true → HostStep s i (respond (.fault .outOfRangeParameter) s)
  | setDone (i : Instr) (frame : List Byte) : isSetOperation i = true → frame.length ≤ 2 →
      HostStep s i (respond .ok (wroteAll frame s))
  | setRefused (i : Instr) (sent : List Byte) : isSetOperation i = true → sent.length ≤ 2 →
      HostStep s i (respond (.fault (.playback .sinkIo)) (wroteUntilRefusal sent s))

theorem write_streamStep {s : State} (dd : Byte) (h : s.phase = .run) :
    StreamStep s (.write dd) (emitThen [dd] (advance 2) s) := by
  rcases emitThen_cases [dd] (advance 2) s with ⟨ht, e⟩ | ⟨k, hk, -, ha, e⟩
  · rw [e]; exact .written dd ht
  · obtain rfl : k = 0 := by simpa using hk
    rw [e, raisePlayback_eq_latchAndAnswer (by exact h)]
    exact .writeRefused dd ha

theorem endOfStream_streamStep {s : State} (h : s.phase = .run) : StreamStep s .endMark (endOfStream s) := by
  rcases endOfStream_cases s with ⟨hl, e⟩ | ⟨l, hl, h0, hN, e⟩ | ⟨l, hl, hout, e⟩
  · rw [e]; exact .finished hl
  · rw [e]; exact .jumped l hl h0 hN
  · rw [e, raisePlayback_eq_latchAndAnswer h]; exact .loopOutOfRange l hl hout

/-- A stream command that answers a next state ran inside a tick and had one of its outcomes. -/
theorem exec_streamStep {i : Instr} {s t : State} (hi : i.isStream = true) (h : exec i s = .next t) :
    s.phase = .run ∧ StreamStep s i t := by
  cases i with
  | write dd =>
    obtain ⟨hp, rfl⟩ := whenRunning_eq_next h
    exact ⟨hp, write_streamStep dd hp⟩
  | wait n =>
    obtain ⟨hp, rfl⟩ := whenRunning_eq_next h
    exact ⟨hp, .waited n⟩
  | wait1 =>
    obtain ⟨hp, rfl⟩ := whenRunning_eq_next h
    exact ⟨hp, .waitedOne⟩
  | endMark =>
    obtain ⟨hp, rfl⟩ := whenRunning_eq_next h
    exact ⟨hp, endOfStream_streamStep hp⟩
  | illegal op =>
    obtain ⟨hp, rfl⟩ := whenRunning_eq_next h
    refine ⟨hp, ?_⟩
    rw [unknownOpcode, raisePlayback_eq_latchAndAnswer hp]
    exact .rejected op
  | _ => cases hi

theorem reset_hostStep {s : State} (h : s.phase = .idle) : HostStep s .reset (emitThen Config.resetSeq rewind s) := by
  rcases emitThen_cases Config.resetSeq rewind s with ⟨ht, e⟩ | ⟨k, hk, htakes, ha, e⟩
  · rw [e]; exact .resetDone ht
  · rw [e, raisePlayback, raise_idle (by exact h)]; exact .resetRefused k hk htakes ha

theorem loadFile_hostStep {s : State} (file : List Byte) (h : s.phase = .idle) :
    HostStep s (.load file) (loadFile file s) := by
  rcases loadFile_cases file s with ⟨track, hparse, e⟩ | ⟨f, hparse, e⟩
  · rw [e]; exact .loaded file track hparse
  · rw [e, raise_idle h]; exact .loadRejected file f hparse

theorem startTick_hostStep {s : State} (h : s.phase = .idle) : HostStep s .tick (startTick s) := by
  rcases startTick_cases s with ⟨f, hf, e⟩ | ⟨hf, he, e⟩ | ⟨hf, he, hp, e⟩ | ⟨hf, he, hp, e⟩
  · rw [e, raise_idle h]; exact .tickFaulted f hf
  · rw [e, raise_idle h]; exact .tickEnded hf he
  · rw [e]; exact .tickWaited hf he hp
  · rw [e]; exact .tickStarted hf he hp

theorem setOperation_hostStep {i : Instr} {s : State} {frame : List Byte} (inDomain : Bool) (hi : isSetOperation i = true)
    (hlen : frame.length ≤ 2) (h : s.phase = .idle) : HostStep s i (setOperation inDomain frame s) := by
  rcases setOperation_cases inDomain frame s with ⟨-, e⟩ | ⟨-, e⟩
  · rw [e, raise_idle h]; exact .setOutOfRange i hi
  · rw [e]
    rcases emitThen_cases frame (respond .ok) s with ⟨-, e⟩ | ⟨k, hk, -, -, e⟩
    · rw [e]; exact .setDone i frame hi hlen
    · rw [e, raisePlayback, raise_idle (by exact h)]
      exact .setRefused i (frame.take k) hi ((List.length_take_le' k frame).trans hlen)

/-- A host operation that answers a next state ran outside a tick (30_encoding R100). -/
theorem idle_of_whenAccepting {act : State → State} {s t : State} (h : whenAccepting act s = .next t) :
    s.phase = .idle ∧ t = act s := by
  obtain ⟨hs, ht⟩ := whenAccepting_eq_next h
  exact ⟨((accepting_iff s).mp hs).1, ht⟩

/-- A host operation that answers a next state was accepted and had one of its outcomes. -/
theorem exec_hostStep {i : Instr} {s t : State} (hi : i.isHost = true) (h : exec i s = .next t) :
    s.phase = .idle ∧ HostStep s i t := by
  cases i with
  | reset =>
    obtain ⟨hp, rfl⟩ := idle_of_whenAccepting h
    exact ⟨hp, reset_hostStep hp⟩
  | load file =>
    obtain ⟨hp, rfl⟩ := idle_of_whenAccepting h
    exact ⟨hp, loadFile_hostStep file hp⟩
  | tick =>
    obtain ⟨hp, rfl⟩ := idle_of_whenAccepting h
    exact ⟨hp, startTick_hostStep hp⟩
  | setTone channel frequencyHz =>
    obtain ⟨hp, rfl⟩ := idle_of_whenAccepting h
    exact ⟨hp, setOperation_hostStep _ rfl (le_refl 2) hp⟩
  | setVolume channel volume =>
    obtain ⟨hp, rfl⟩ := idle_of_whenAccepting h
    exact ⟨hp, setOperation_hostStep _ rfl one_le_two hp⟩
  | setNoise mode shiftRate =>
    obtain ⟨hp, rfl⟩ := idle_of_whenAccepting h
    exact ⟨hp, setOperation_hostStep _ rfl one_le_two hp⟩
  | _ => cases hi

/-! ### Frames -/

/-- Bytes are read from the command stream and from nothing else. -/
theorem readByte_congr {s t : State} (h : t.commandStream = s.commandStream) (a : Nat) : readByte t a = readByte s a := by
  rw [readByte, readByte, h]

namespace StreamStep

variable {i : Instr} {s t : State}

theorem environment_eq (h : StreamStep s i t) :
    t.commandStream = s.commandStream ∧ t.loopOffset = s.loopOffset ∧ t.inbox = s.inbox ∧
      t.bootPending = s.bootPending := by
  cases h <;> exact ⟨rfl, rfl, rfl, rfl⟩

theorem ended_eq (h : StreamStep s i t) (hi : i ≠ .endMark) : t.ended = s.ended := by
  cases h with
  | jumped | loopOutOfRange | finished => exact absurd rfl hi
  | _ => rfl

theorem pendingTicks_eq (h : StreamStep s i t) (hi : ∀ n, i ≠ .wait n) (hi1 : i ≠ .wait1) :
    t.pendingTicks = s.pendingTicks := by
  cases h with
  | waited n => exact absurd rfl (hi n)
  | waitedOne => exact absurd rfl hi1
  | _ => rfl

theorem sink_eq (h : StreamStep s i t) (hi : ∀ dd, i ≠ .write dd) :
    t.sinkTrace = s.sinkTrace ∧ t.sinkAnswers = s.sinkAnswers ∧ t.sinkCalls = s.sinkCalls := by
  cases h with
  | written dd | writeRefused dd => exact absurd rfl (hi dd)
  | _ => exact ⟨rfl, rfl, rfl⟩

theorem fault_eq (h : StreamStep s i t) (hi : (∃ n, i = .wait n) ∨ i = .wait1) : t.fault = s.fault := by
  rcases hi with ⟨n, rfl⟩ | rfl <;> cases h <;> rfl

end StreamStep

namespace HostStep

variable {i : Instr} {s t : State}

theorem environment_eq (h : HostStep s i t) : t.inbox = s.inbox ∧ t.bootPending = s.bootPending := by
  cases h <;> exact ⟨rfl, rfl⟩

theorem track_eq (h : HostStep s i t) (hi : ∀ file, i ≠ .load file) :
    t.commandStream = s.commandStream ∧ t.loopOffset = s.loopOffset ∧ t.ended = s.ended ∧ t.fault = s.fault := by
  cases h with
  | loaded file => exact absurd rfl (hi file)
  | _ => exact ⟨rfl, rfl, rfl, rfl⟩

theorem cursor_eq (h : HostStep s i t) (hi : ∀ file, i ≠ .load file) (hr : i ≠ .reset) : t.cursor = s.cursor := by
  cases h with
  | loaded file => exact absurd rfl (hi file)
  | resetDone => exact absurd rfl hr
  | _ => rfl

theorem pendingTicks_eq (h : HostStep s i t) (hi : ∀ file, i ≠ .load file) (ht : i ≠ .tick) :
    t.pendingTicks = s.pendingTicks := by
  cases h with
  | loaded file => exact absurd rfl (hi file)
  | tickWaited | tickStarted => exact absurd rfl ht
  | _ => rfl

theorem phase_eq_idle (h : HostStep s i t) (ht : i ≠ .tick) : t.phase = .idle := by
  cases h with
  | tickStarted => exact absurd rfl ht
  | _ => rfl

theorem sink_eq (h : HostStep s i t) (hi : (∃ file, i = .load file) ∨ i = .tick) :
    t.sinkTrace = s.sinkTrace ∧ t.sinkAnswers = s.sinkAnswers ∧ t.sinkCalls = s.sinkCalls := by
  rcases hi with ⟨file, rfl⟩ | rfl <;> cases h with
  | setOutOfRange _ hset | setDone _ _ hset | setRefused _ _ hset => cases hset
  | _ => exact ⟨rfl, rfl, rfl⟩

/-- A RESET whose bytes the sink takes clears the cursor (42_register_encoder R181). -/
theorem reset_cursor (h : HostStep s .reset t) (hs : sinkTakes 4 s) : t.cursor = 0 := by
  cases h with
  | resetDone => rfl
  | resetRefused k hk _ ha => rw [hs k hk] at ha; cases ha
  | setOutOfRange _ hset | setDone _ _ hset | setRefused _ _ hset => cases hset

/-- A TICK answers a latched fault and does nothing else (41_playback R140). -/
theorem tick_of_fault {f : PlaybackFault} (h : HostStep s .tick t) (hf : s.fault = some f) :
    t = respond (.fault (.playback f)) s := by
  cases h with
  | tickFaulted g hg => rw [hf] at hg; cases hg; rfl
  | tickEnded hn | tickWaited hn | tickStarted hn => rw [hf] at hn; cases hn
  | setOutOfRange _ hset | setDone _ _ hset | setRefused _ _ hset => cases hset

/-- After the end a TICK is answered with a fault and does nothing else (41_playback R140). -/
theorem tick_of_ended (h : HostStep s .tick t) (he : s.ended = true) : ∃ f, t = respond (.fault f) s := by
  cases h with
  | tickFaulted f => exact ⟨_, rfl⟩
  | tickEnded => exact ⟨_, rfl⟩
  | tickWaited _ hn | tickStarted _ hn => rw [he] at hn; cases hn
  | setOutOfRange _ hset | setDone _ _ hset | setRefused _ _ hset => cases hset

end HostStep

/-- Settles O19, from the outcomes of the stream commands. -/
theorem streamCommandsFrame : Obligations.StreamCommandsFrame := by
  unfold Obligations.StreamCommandsFrame
  intro i s t hi h
  obtain ⟨-, hs⟩ := exec_streamStep hi h
  obtain ⟨hcs, hloop, hin, hboot⟩ := hs.environment_eq
  exact ⟨hcs, hloop, readByte_congr hcs, hin, hboot, hs.ended_eq, hs.pendingTicks_eq, hs.sink_eq, hs.fault_eq⟩

/-- Settles O43, from the outcomes of the host operations. -/
theorem hostOperationsFrame : Obligations.HostOperationsFrame := by
  unfold Obligations.HostOperationsFrame
  intro i s t hi h
  obtain ⟨hp, hs⟩ := exec_hostStep hi h
  obtain ⟨hin, hboot⟩ := hs.environment_eq
  refine ⟨hin, hboot, fun hload => ?_, fun ht => (hs.phase_eq_idle ht).trans hp.symm, hs.sink_eq⟩
  obtain ⟨hcs, hloop, hended, hfault⟩ := hs.track_eq hload
  exact ⟨hcs, hloop, readByte_congr hcs, hended, hfault, hs.cursor_eq hload, hs.pendingTicks_eq hload⟩

/-! ### The track, the end of the song and the latch over a step -/

/-- The outcomes of a step (10_state R30, 41_playback R142 to R144), with what the instruction it runs can do. -/
inductive StepOutcome (s : State) : State → Prop
  | powerOn : s.bootPending = true → nextInstr s = none → StepOutcome s (powerOnEmission s)
  | command (i : Instr) {t : State} : s.phase = .run → s.bootPending = false →
      decode (s.commandStream.drop s.cursor) = .ok i → nextInstr s = some i → StreamStep s i t → StepOutcome s t
  | fetchFailed (e : DecodeError) : s.phase = .run → s.bootPending = false →
      decode (s.commandStream.drop s.cursor) = .error e → nextInstr s = none → StepOutcome s (latchAndAnswer (.truncatedStream (truncationOffset e s)) s)
  | noRequest : s.phase = .idle → s.bootPending = false → s.inbox = [] → nextInstr s = none → StepOutcome s s
  | request (op : HostOp) (rest : List HostOp) {t : State} : s.phase = .idle → s.bootPending = false →
      s.inbox = op :: rest → nextInstr s = some op.toInstr → HostStep (takeRequest rest s) op.toInstr t →
      StepOutcome s t

theorem step_outcome {s t : State} (h : step s = .next t) : StepOutcome s t := by
  rcases step_cases h with ⟨hboot, rfl, hn⟩ | ⟨hboot, hrun, i, hi, hd, hn, hexec⟩ | ⟨hboot, hrun, e, hd, hn, rfl⟩ |
    ⟨hboot, hidle, hin, hn, rfl⟩ | ⟨hboot, hidle, op, rest, hin, hn, hexec⟩
  · exact .powerOn hboot hn
  · exact .command i hrun hboot hd hn (exec_streamStep hi hexec).2
  · rw [fetchFault_eq_latchAndAnswer hrun]; exact .fetchFailed e hrun hboot hd hn
  · exact .noRequest hidle hboot hin hn
  · exact .request op rest hidle hboot hin hn (exec_hostStep (toInstr_isHost op) hexec).2

/-- The power-on emission touches no item of the block but the sink trace (70_reset_and_hazards R271). -/
theorem powerOnEmission_block (s : State) :
    (powerOnEmission s).commandStream = s.commandStream ∧ (powerOnEmission s).loopOffset = s.loopOffset ∧
      (powerOnEmission s).cursor = s.cursor ∧ (powerOnEmission s).pendingTicks = s.pendingTicks ∧
      (powerOnEmission s).ended = s.ended ∧ (powerOnEmission s).fault = s.fault ∧
      (powerOnEmission s).phase = s.phase ∧ (powerOnEmission s).bootPending = false := by
  obtain ⟨bytes, k, e, -, -⟩ := powerOnEmission_frame s
  rw [e]
  exact ⟨rfl, rfl, rfl, rfl, rfl, rfl, rfl, rfl⟩

/-- The instruction of a step that runs no LOAD is none. -/
theorem ne_load_of_nextInstr {s : State} {i : Instr} (hn : nextInstr s = some i)
    (hload : ∀ file, nextInstr s ≠ some (.load file)) (file : List Byte) : i ≠ .load file := by
  rintro rfl
  exact hload file hn

/-- Settles O44: the frames of the stream commands and of the host operations, one after the other. -/
theorem trackIsImmutableExceptByLoad : Obligations.TrackIsImmutableExceptByLoad := by
  unfold Obligations.TrackIsImmutableExceptByLoad
  intro s t h hload
  cases step_outcome h with
  | powerOn =>
    obtain ⟨hcs, hloop, -⟩ := powerOnEmission_block s
    exact ⟨hcs, hloop⟩
  | command _ _ _ _ _ hs =>
    obtain ⟨hcs, hloop, -⟩ := hs.environment_eq
    exact ⟨hcs, hloop⟩
  | fetchFailed | noRequest => exact ⟨rfl, rfl⟩
  | request op rest _ _ _ hn hs =>
    obtain ⟨hcs, hloop, -⟩ := hs.track_eq (ne_load_of_nextInstr hn hload)
    exact ⟨hcs, hloop⟩

/-- No tick runs on a stopped track (10_state R40, 41_playback R158). -/
theorem Inv.idle_of_stopped {s : State} (hinv : Inv s) (hstop : s.ended = true ∨ s.fault ≠ none) : s.phase = .idle := by
  cases hp : s.phase with
  | idle => rfl
  | run =>
    obtain ⟨-, hfault, hended⟩ := hinv.running hp
    simp [hfault, hended] at hstop

/-- On a track that has ended a host operation but LOAD leaves the counter alone, and no tick begins. -/
theorem HostStep.ticks_of_ended {i : Instr} {s t : State} (hs : HostStep s i t) (hended : s.ended = true)
    (hload : ∀ file, i ≠ .load file) : t.pendingTicks = s.pendingTicks ∧ t.phase = .idle := by
  by_cases htick : i = .tick
  · subst htick
    obtain ⟨f, rfl⟩ := hs.tick_of_ended hended
    exact ⟨rfl, rfl⟩
  · exact ⟨hs.pendingTicks_eq hload htick, hs.phase_eq_idle htick⟩

/-- Settles O45: no command runs, so that the host operations' frames say it, and a TICK is only answered. -/
theorem endedIsTerminal : Obligations.EndedIsTerminal := by
  unfold Obligations.EndedIsTerminal
  intro s t hinv hended h hload
  have hidle := hinv.idle_of_stopped (.inl hended)
  cases step_outcome h with
  | powerOn _ hn =>
    obtain ⟨hcs, hloop, hcur, hpend, hend, hfault, hphase, -⟩ := powerOnEmission_block s
    exact ⟨hcs, hloop, hpend, hend.trans hended, hfault, hphase.trans hidle, fun _ => hcur,
      fun hr => by simp [hn] at hr⟩
  | command _ hrun | fetchFailed _ hrun => cases hidle.symm.trans hrun
  | noRequest _ _ _ hn => exact ⟨rfl, rfl, rfl, hended, rfl, hidle, fun _ => rfl, fun hr => by simp [hn] at hr⟩
  | request op rest _ _ _ hn hs =>
    have hne := ne_load_of_nextInstr hn hload
    obtain ⟨hcs, hloop, hend, hfault⟩ := hs.track_eq hne
    obtain ⟨hpend, hphase⟩ := hs.ticks_of_ended hended hne
    refine ⟨hcs, hloop, hpend, hend.trans hended, hfault, hphase, fun hr => ?_, fun hr htakes => ?_⟩
    · exact hs.cursor_eq hne fun hreset => hr (hreset ▸ hn)
    · have hreset : op.toInstr = .reset := Option.some.inj (hn.symm.trans hr)
      rw [hreset] at hs
      exact hs.reset_cursor htakes

/-- Settles O47: no command runs, no host operation but LOAD writes the latch, and a TICK only answers it. -/
theorem latchedFaultIsSticky : Obligations.LatchedFaultIsSticky := by
  unfold Obligations.LatchedFaultIsSticky
  intro s t f hinv hf h hload
  have hidle := hinv.idle_of_stopped (.inr (by simp [hf]))
  cases step_outcome h with
  | powerOn _ hn =>
    obtain ⟨-, -, -, -, -, hfault, -⟩ := powerOnEmission_block s
    exact ⟨hfault.trans hf, fun ht => by simp [hn] at ht⟩
  | command _ hrun | fetchFailed _ hrun => cases hidle.symm.trans hrun
  | noRequest _ _ _ hn => exact ⟨hf, fun ht => by simp [hn] at ht⟩
  | request op rest _ _ hin hn hs =>
    obtain ⟨-, -, -, hfault⟩ := hs.track_eq (ne_load_of_nextInstr hn hload)
    refine ⟨hfault.trans hf, fun ht => ?_⟩
    have htick : op.toInstr = .tick := Option.some.inj (hn.symm.trans ht)
    rw [htick] at hs
    rw [hs.tick_of_fault hf, hin, respond, ← hidle]
    rfl

/-! ### The sink trace -/

/-- At most four bytes were appended to the sink trace, each by a call of its own (20_memory R54, R65). -/
def SinkGrows (s t : State) : Prop :=
  ∃ bytes, t.sinkTrace = s.sinkTrace ++ bytes ∧ bytes.length ≤ 4 ∧ s.sinkCalls + bytes.length ≤ t.sinkCalls

theorem SinkGrows.of_eq {s t : State} (htrace : t.sinkTrace = s.sinkTrace) (hcalls : t.sinkCalls = s.sinkCalls) :
    SinkGrows s t :=
  ⟨[], by simp [htrace], by simp, by simp [hcalls]⟩

theorem sinkGrows_wroteAll {bytes : List Byte} (s : State) (h : bytes.length ≤ 4) : SinkGrows s (wroteAll bytes s) :=
  ⟨bytes, rfl, h, le_rfl⟩

theorem sinkGrows_wroteUntilRefusal {bytes : List Byte} (s : State) (h : bytes.length ≤ 4) :
    SinkGrows s (wroteUntilRefusal bytes s) :=
  ⟨bytes, rfl, h, Nat.le_succ _⟩

theorem sinkGrows_powerOnEmission (s : State) : SinkGrows s (powerOnEmission s) := by
  obtain ⟨bytes, k, e, hlen, hcalls⟩ := powerOnEmission_frame s
  rw [e]
  exact ⟨bytes, rfl, hlen, Nat.add_le_add_left hcalls _⟩

theorem StreamStep.sinkGrows {i : Instr} {s t : State} (h : StreamStep s i t) : SinkGrows s t := by
  cases h with
  | written dd => exact sinkGrows_wroteAll (bytes := [dd]) s (by simp)
  | writeRefused => exact sinkGrows_wroteUntilRefusal (bytes := []) s (by simp)
  | _ => exact .of_eq rfl rfl

theorem HostStep.sinkGrows {i : Instr} {s t : State} (h : HostStep s i t) : SinkGrows s t := by
  cases h with
  | resetDone => exact sinkGrows_wroteAll (bytes := Config.resetSeq) s (by decide)
  | resetRefused k hk => exact sinkGrows_wroteUntilRefusal s (List.length_take_le k Config.resetSeq |>.trans hk.le)
  | setDone _ _ _ hlen => exact sinkGrows_wroteAll s (by omega)
  | setRefused _ _ _ hlen => exact sinkGrows_wroteUntilRefusal s (by omega)
  | _ => exact .of_eq rfl rfl

/-- Settles O48: WRITE, RESET, the SET operations and the power-on emission alone write the sink. -/
theorem sinkTraceOnlyGrows : Obligations.SinkTraceOnlyGrows := by
  unfold Obligations.SinkTraceOnlyGrows
  intro s t h
  change SinkGrows s t
  cases step_outcome h with
  | powerOn => exact sinkGrows_powerOnEmission s
  | command _ _ _ _ _ hs => exact hs.sinkGrows
  | fetchFailed | noRequest => exact .of_eq rfl rfl
  | request _ _ _ _ _ _ hs => exact hs.sinkGrows

/-! ### The invariant -/

namespace Inv

variable {s : State}

/-- The invariant reads the block's items and nothing of the environment or the sink. -/
theorem congr {t : State} (h : Inv s) (hcs : t.commandStream = s.commandStream) (hloop : t.loopOffset = s.loopOffset)
    (hcur : t.cursor = s.cursor) (hpend : t.pendingTicks = s.pendingTicks) (hended : t.ended = s.ended)
    (hfault : t.fault = s.fault) (hphase : t.phase = s.phase) (hboot : t.bootPending = true → s.bootPending = true) :
    Inv t where
  cursor_le := by rw [State.N, hcs, hcur]; exact h.cursor_le
  not_both := by rw [hended, hfault]; exact h.not_both
  pending_le := hpend ▸ h.pending_le
  running := by rw [hphase, hpend, hfault, hended]; exact h.running
  stopped := by rw [hpend, hfault, hended]; exact h.stopped
  loop_range := hloop ▸ h.loop_range
  boot_idle hb := hphase.trans (h.boot_idle (hboot hb))

theorem takeRequest (h : Inv s) (rest : List HostOp) : Inv (takeRequest rest s) :=
  h.congr rfl rfl rfl rfl rfl rfl rfl id

theorem wroteAll (h : Inv s) (bytes : List Byte) : Inv (wroteAll bytes s) :=
  h.congr rfl rfl rfl rfl rfl rfl rfl id

theorem wroteUntilRefusal (h : Inv s) (bytes : List Byte) : Inv (wroteUntilRefusal bytes s) :=
  h.congr rfl rfl rfl rfl rfl rfl rfl id

theorem powerOnEmission (h : Inv s) : Inv (powerOnEmission s) := by
  obtain ⟨hcs, hloop, hcur, hpend, hended, hfault, hphase, hboot⟩ := powerOnEmission_block s
  exact h.congr hcs hloop hcur hpend hended hfault hphase fun hb => by simp [hboot] at hb

theorem withCursor (h : Inv s) {n : Nat} (hn : n ≤ s.N) : Inv { s with cursor := n } :=
  { h with cursor_le := hn }

theorem advance (h : Inv s) {n : Nat} (hn : s.cursor + n ≤ s.N) : Inv (advance n s) :=
  h.withCursor hn

theorem respond (h : Inv s) (r : Response) : Inv (respond r s) :=
  { h with running := nofun, boot_idle := fun _ => rfl }

/-- A counter of at most 88 may stand outside a tick on a track that goes on (41_playback R157). -/
theorem respondWithTicks (h : Inv s) (hfault : s.fault = none) (hended : s.ended = false) {p : Int} (hp : p ≤ 88)
    (r : Response) : Inv (Machine.respond r { s with pendingTicks := p }) :=
  { h with
    pending_le := hp, running := nofun, boot_idle := fun _ => rfl
    stopped := fun hstop => by simp [hfault, hended] at hstop }

/-- A tick begins below zero (41_playback R141). -/
theorem startRun (h : Inv s) (hfault : s.fault = none) (hended : s.ended = false) (hboot : s.bootPending = false) {p : Int}
    (hp : p ≤ -1) : Inv { s with pendingTicks := p, phase := .run } :=
  { h with
    pending_le := by change p ≤ 88; omega
    running := fun _ => ⟨hp, hfault, hended⟩, stopped := fun _ => hp
    boot_idle := fun hb => by simp [hboot] at hb }

/-- A fault latched inside a tick finds the counter below zero and the track not ended (41_playback R158, R160). -/
theorem latchAndAnswer (h : Inv s) (hrun : s.phase = .run) (f : PlaybackFault) : Inv (latchAndAnswer f s) := by
  obtain ⟨hpend, -, hended⟩ := h.running hrun
  exact { h with
    not_both := fun hboth => by simp [Machine.latchAndAnswer, hended] at hboth
    running := nofun, stopped := fun _ => hpend, boot_idle := fun _ => rfl }

/-- The end of the song is set inside a tick, with the counter below zero (41_playback R158). -/
theorem respondEnded (h : Inv s) (hrun : s.phase = .run) : Inv (Machine.respond .ok (setEnded s)) := by
  obtain ⟨hpend, hfault, -⟩ := h.running hrun
  exact { h with
    not_both := fun hboth => hboth.1 hfault
    running := nofun, stopped := fun _ => hpend, boot_idle := fun _ => rfl }

/-- A wait inside a tick adds at most 89 to a counter of at most -1 (41_playback R157). -/
theorem pause (h : Inv s) (hrun : s.phase = .run) {ticks : Int} (hticks : ticks ≤ 89) {n : Nat}
    (hn : s.cursor + n ≤ s.N) : Inv (pause ticks n s) := by
  obtain ⟨hpend, hfault, hended⟩ := h.running hrun
  exact (h.advance hn).respondWithTicks hfault hended (p := s.pendingTicks + ticks) (by omega) .ok

/-- A LOAD that commits establishes the invariant, whatever held before (40_loader R128). -/
theorem of_commitTrack (s : State) {file : List Byte} {track : Track} (hparse : parseVgm file = .ok track) :
    Inv (Machine.respond .ok (commitTrack track s)) := by
  obtain ⟨eofOffset, loopRaw, -, -, -, rfl, -⟩ := parseVgm_ok hparse
  exact {
    cursor_le := Nat.zero_le _
    not_both := fun hboth => hboth.1 rfl
    pending_le := by simp
    running := nofun
    stopped := by simp
    loop_range := loopOffsetOf_range loopRaw
    boot_idle := fun _ => rfl }

end Inv

/-- A decoded command's bytes are there (30_encoding R86). -/
theorem encode_length_le_of_decode {bytes : List Byte} {i : Instr} (h : decode bytes = .ok i) :
    (encode i).length ≤ bytes.length := by
  unfold decode at h
  repeat' split at h
  all_goals cases h
  all_goals simp [encode]

/-- The end of the command at the cursor is within the stream. -/
theorem cursor_add_length_le {s : State} {i : Instr} (h : Inv s)
    (hd : decode (s.commandStream.drop s.cursor) = .ok i) : s.cursor + (encode i).length ≤ s.N := by
  have hlen := encode_length_le_of_decode hd
  rw [List.length_drop] at hlen
  exact (Nat.le_sub_iff_add_le' h.cursor_le).mp hlen

theorem StreamStep.inv {i : Instr} {s t : State} (hs : StreamStep s i t) (h : Inv s) (hrun : s.phase = .run)
    (hd : decode (s.commandStream.drop s.cursor) = .ok i) : Inv t := by
  have hend := cursor_add_length_le h hd
  cases hs with
  | written dd => exact (h.wroteAll [dd]).advance hend
  | writeRefused => exact (h.wroteUntilRefusal []).latchAndAnswer hrun _
  | waited n => exact h.pause hrun (waitTicks_bounds n).2 hend
  | waitedOne => exact h.pause hrun (by decide) hend
  | jumped l _ _ hN => exact h.withCursor (by omega)
  | loopOutOfRange => exact h.latchAndAnswer hrun _
  | finished => exact (h.advance hend).respondEnded hrun
  | rejected => exact h.latchAndAnswer hrun _

theorem HostStep.inv {i : Instr} {s t : State} (hs : HostStep s i t) (h : Inv s) (hboot : s.bootPending = false) :
    Inv t := by
  cases hs with
  | resetDone => exact ((h.wroteAll _).withCursor (Nat.zero_le _)).respond _
  | resetRefused => exact (h.wroteUntilRefusal _).respond _
  | loaded _ _ hparse => exact Inv.of_commitTrack s hparse
  | loadRejected | tickFaulted | tickEnded | setOutOfRange => exact h.respond _
  | tickWaited hfault hended => exact h.respondWithTicks hfault hended (by have := h.pending_le; omega) _
  | tickStarted hfault hended hp => exact h.startRun hfault hended hboot (by omega)
  | setDone => exact (h.wroteAll _).respond _
  | setRefused => exact (h.wroteUntilRefusal _).respond _

/-- Settles O50. -/
theorem invariantHoldsAtReset : Obligations.InvariantHoldsAtReset where
  cursor_le := le_rfl
  not_both := fun hboth => hboth.1 rfl
  pending_le := by decide
  running := nofun
  stopped := by decide
  loop_range := nofun
  boot_idle := fun _ => rfl

/-- Settles O51, by the outcomes of a step. -/
theorem invariantIsKeptByEveryStep : Obligations.InvariantIsKeptByEveryStep := by
  unfold Obligations.InvariantIsKeptByEveryStep
  intro s t hinv h
  cases step_outcome h with
  | powerOn => exact hinv.powerOnEmission
  | command _ hrun _ hd _ hs => exact hs.inv hinv hrun hd
  | fetchFailed _ hrun => exact hinv.latchAndAnswer hrun _
  | noRequest => exact hinv
  | request _ rest _ hboot _ _ hs => exact hs.inv (hinv.takeRequest rest) hboot

/-! ### The account of ticks owed and spent -/

namespace Account

variable {a : Account} {s t : State}

theorem advance_none (h : nextInstr s = none) : a.advance s = a := by
  simp [Account.advance, h]

theorem advance_other {i : Instr} (h : nextInstr s = some i) (hwait : ∀ n, i ≠ .wait n) (hwait1 : i ≠ .wait1)
    (htick : i ≠ .tick) (hload : ∀ file, i ≠ .load file) : a.advance s = a := by
  cases i with
  | wait n => exact absurd rfl (hwait n)
  | wait1 => exact absurd rfl hwait1
  | tick => exact absurd rfl htick
  | load file => exact absurd rfl (hload file)
  | _ => simp [Account.advance, h]

theorem advance_wait {n : BitVec 16} (h : nextInstr s = some (.wait n)) :
    a.advance s = { a with owed := a.owed + waitTicks n } := by
  simp [Account.advance, h]

theorem advance_wait1 (h : nextInstr s = some .wait1) : a.advance s = { a with owed := a.owed + 1 } := by
  simp [Account.advance, h]

/-- A TICK that passes the entry checks is spent (41_playback R140). -/
theorem advance_tick (h : nextInstr s = some .tick) (hfault : s.fault = none) (hended : s.ended = false) :
    a.advance s = { a with spent := a.spent + 1 } := by
  simp [Account.advance, h, tickVerdict, hfault, hended]

theorem advance_loaded {file : List Byte} {track : Track} (h : nextInstr s = some (.load file))
    (hparse : parseVgm file = .ok track) : a.advance s = ⟨0, 0⟩ := by
  simp [Account.advance, h, hparse, Except.toOption]

theorem advance_loadRejected {file : List Byte} {f : BlockFault} (h : nextInstr s = some (.load file))
    (hparse : parseVgm file = .error f) : a.advance s = a := by
  simp [Account.advance, h, hparse, Except.toOption]

/-- Nothing is claimed once a fault is latched. -/
theorem balanced_of_fault {f : PlaybackFault} (h : t.fault = some f) : a.balanced t :=
  fun hn => by simp [h] at hn

/-- Nothing is claimed after the end. -/
theorem balanced_of_ended (h : t.ended = true) : a.balanced t :=
  fun _ hn => by simp [h] at hn

theorem balanced_congr (h : a.balanced s) (hpend : t.pendingTicks = s.pendingTicks) (hended : t.ended = s.ended)
    (hfault : t.fault = s.fault) : a.balanced t := by
  unfold Account.balanced
  rw [hpend, hended, hfault]
  exact h

theorem balanced_pause (h : a.balanced s) (ticks : Int) (n : Nat) :
    Account.balanced { a with owed := a.owed + ticks } (pause ticks n s) := by
  intro hfault hended
  have hbal : s.pendingTicks = a.owed - a.spent := h hfault hended
  change s.pendingTicks + ticks = a.owed + ticks - a.spent
  omega

/-- A TICK that passed the entry checks takes one from both sides (41_playback R141). -/
theorem balanced_spend (h : a.balanced s) (hfault : s.fault = none) (hended : s.ended = false)
    (hpend : t.pendingTicks = s.pendingTicks - 1) : Account.balanced { a with spent := a.spent + 1 } t := by
  intro _ _
  have hbal : s.pendingTicks = a.owed - a.spent := h hfault hended
  rw [hpend, hbal]
  push_cast
  omega

theorem balanced_powerOnEmission (h : a.balanced s) : a.balanced (powerOnEmission s) := by
  obtain ⟨-, -, -, hpend, hended, hfault, -⟩ := powerOnEmission_block s
  exact balanced_congr h hpend hended hfault

end Account

theorem StreamStep.balanced {a : Account} {i : Instr} {s t : State} (hs : StreamStep s i t) (h : a.balanced s)
    (hn : nextInstr s = some i) : (a.advance s).balanced t := by
  cases hs with
  | written | jumped =>
    rw [Account.advance_other hn nofun nofun nofun nofun]
    exact Account.balanced_congr h rfl rfl rfl
  | waited n => rw [Account.advance_wait hn]; exact Account.balanced_pause h _ _
  | waitedOne => rw [Account.advance_wait1 hn]; exact Account.balanced_pause h _ _
  | finished => exact Account.balanced_of_ended rfl
  | writeRefused | loopOutOfRange | rejected => exact Account.balanced_of_fault rfl

theorem HostStep.balanced {a : Account} {i : Instr} {s t : State} {rest : List HostOp}
    (hs : HostStep (takeRequest rest s) i t) (h : a.balanced s) (hn : nextInstr s = some i) :
    (a.advance s).balanced t := by
  cases hs with
  | resetDone | resetRefused =>
    rw [Account.advance_other hn nofun nofun nofun nofun]
    exact Account.balanced_congr h rfl rfl rfl
  | loaded _ _ hparse => rw [Account.advance_loaded hn hparse]; exact fun _ _ => rfl
  | loadRejected _ _ hparse =>
    rw [Account.advance_loadRejected hn hparse]
    exact Account.balanced_congr h rfl rfl rfl
  | tickFaulted _ hfault => exact Account.balanced_of_fault hfault
  | tickEnded _ hended => exact Account.balanced_of_ended hended
  | tickWaited hfault hended | tickStarted hfault hended =>
    rw [Account.advance_tick hn hfault hended]
    exact Account.balanced_spend h hfault hended rfl
  | setOutOfRange _ hset | setDone _ _ hset | setRefused _ _ hset =>
    rw [Account.advance_other hn (by rintro n rfl; cases hset) (by rintro rfl; cases hset) (by rintro rfl; cases hset)
      (by rintro file rfl; cases hset)]
    exact Account.balanced_congr h rfl rfl rfl

/-- Settles O52, by the outcomes of a step. -/
theorem counterIsTicksOwedLessTicksSpent : Obligations.CounterIsTicksOwedLessTicksSpent := by
  unfold Obligations.CounterIsTicksOwedLessTicksSpent
  refine ⟨fun _ _ => rfl, fun a s t hbal h => ?_⟩
  cases step_outcome h with
  | powerOn _ hn => rw [Account.advance_none hn]; exact Account.balanced_powerOnEmission hbal
  | command _ _ _ _ hn hs => exact hs.balanced hbal hn
  | fetchFailed => exact Account.balanced_of_fault rfl
  | noRequest _ _ _ hn => rw [Account.advance_none hn]; exact hbal
  | request _ _ _ _ _ hn hs => exact hs.balanced hbal hn

end Sys2Proof.Machine
end

section

/-! ### Header words -/

namespace Sys2Proof.Machine

/-- A byte appended below a word moves the word up by one byte. -/
theorem toNat_append_byte {w : Nat} (high : BitVec w) (low : Byte) :
    (high ++ low).toNat = 256 * high.toNat + low.toNat := by
  rw [BitVec.toNat_append, ← Nat.shiftLeft_add_eq_or_of_lt low.isLt, Nat.shiftLeft_eq, Nat.mul_comm]

/-- A header word is its four bytes put together, the one at the lowest offset least significant (20_memory R58). -/
theorem u32le_eq_some {file : List Byte} {o : Nat} {b0 b1 b2 b3 : Byte} (h0 : file[o]? = some b0)
    (h1 : file[o + 1]? = some b1) (h2 : file[o + 2]? = some b2) (h3 : file[o + 3]? = some b3) :
    u32le file o = some (b3 ++ b2 ++ b1 ++ b0) := by
  simp only [u32le, h0, h1, h2, h3]

/-- The value of four bytes put together (20_memory R58). -/
theorem toNat_append_bytes (b0 b1 b2 b3 : Byte) :
    (b3 ++ b2 ++ b1 ++ b0).toNat = b0.toNat + 256 * b1.toNat + 65536 * b2.toNat + 16777216 * b3.toNat := by
  rw [toNat_append_byte, toNat_append_byte, toNat_append_byte]
  omega

/-- Settles O30: a header word is the concatenation of its bytes, and a WAIT operand is `u16` of its two. -/
theorem headerWordsAreLittleEndian : Obligations.HeaderWordsAreLittleEndian := by
  unfold Obligations.HeaderWordsAreLittleEndian
  refine fun file o => ⟨(u32le_eq_none_iff file o).symm, fun b0 b1 b2 b3 h0 h1 h2 h3 => ?_⟩
  exact ⟨_, u32le_eq_some h0 h1 h2 h3, toNat_append_bytes b0 b1 b2 b3,
    fun rest => ⟨_, decode_wait b0 b1 rest, u16_toNat b0 b1⟩⟩

end Sys2Proof.Machine
end

section

/-! ### The decoder of the command stream -/

namespace Sys2Proof.Machine

/-- What `decode` answers on every byte sequence, by the rows of the opcode table (30_encoding R81 to R87). -/
inductive DecodeOutcome : List Byte → Except DecodeError Instr → Prop
  | noOpcode : DecodeOutcome [] (.error .noOpcode)
  | write (dd : Byte) (rest : List Byte) : DecodeOutcome (0x50 :: dd :: rest) (.ok (.write dd))
  | writeTruncated : DecodeOutcome [0x50] (.error (.missingOperand 1))
  | wait (lo hi : Byte) (rest : List Byte) : DecodeOutcome (0x61 :: lo :: hi :: rest) (.ok (.wait (u16 lo hi)))
  | waitTruncated : DecodeOutcome [0x61] (.error (.missingOperand 1))
  | waitHalf (lo : Byte) : DecodeOutcome [0x61, lo] (.error (.missingOperand 2))
  | wait1 (rest : List Byte) : DecodeOutcome (0x62 :: rest) (.ok .wait1)
  | endMark (rest : List Byte) : DecodeOutcome (0x66 :: rest) (.ok .endMark)
  | illegal (op : Byte) (rest : List Byte) : (Instr.illegal op).wf = true →
      DecodeOutcome (op :: rest) (.ok (.illegal op))

/-- An opcode byte is illegal when it is none of the four (30_encoding R85). -/
theorem illegal_wf_iff (op : Byte) :
    (Instr.illegal op).wf = true ↔ op ≠ 0x50 ∧ op ≠ 0x61 ∧ op ≠ 0x62 ∧ op ≠ 0x66 := by
  simp [Instr.wf, legalOpcodes]

theorem decode_outcome (bytes : List Byte) : DecodeOutcome bytes (decode bytes) := by
  rcases bytes with _ | ⟨op, operands⟩
  · exact .noOpcode
  by_cases h50 : op = 0x50
  · subst h50
    rcases operands with _ | ⟨dd, rest⟩
    · exact .writeTruncated
    · exact .write dd rest
  by_cases h61 : op = 0x61
  · subst h61
    rcases operands with _ | ⟨lo, _ | ⟨hi, rest⟩⟩
    · exact .waitTruncated
    · exact .waitHalf lo
    · exact .wait lo hi rest
  by_cases h62 : op = 0x62
  · subst h62; exact .wait1 operands
  by_cases h66 : op = 0x66
  · subst h66; exact .endMark operands
  have hwf : (Instr.illegal op).wf = true := (illegal_wf_iff op).mpr ⟨h50, h61, h62, h66⟩
  rw [decode_cons_illegal hwf]
  exact .illegal op operands hwf

/-- Settles O2: the decoder's equation for each stream command; WAIT's operand is put together again from its bytes. -/
theorem decodeInvertsEncodeOnStreamCommands : Obligations.DecodeInvertsEncodeOnStreamCommands := by
  unfold Obligations.DecodeInvertsEncodeOnStreamCommands
  intro i rest hwf hstream
  cases i with
  | write dd => exact decode_write dd rest
  | wait n =>
    calc decode (encode (.wait n) ++ rest)
      _ = .ok (.wait (u16 (n.extractLsb' 0 8) (n.extractLsb' 8 8))) := decode_wait _ _ rest
      _ = .ok (.wait n) := by rw [u16_extract]
  | wait1 => exact decode_wait1 rest
  | endMark => exact decode_endMark rest
  | illegal op => exact decode_cons_illegal hwf
  | _ => cases hstream

/-- Settles O3, by the decoder's outcomes. -/
theorem decodedCommandIsAPrefixOfTheBytes : Obligations.DecodedCommandIsAPrefixOfTheBytes := by
  unfold Obligations.DecodedCommandIsAPrefixOfTheBytes
  intro bytes i h
  have hout := decode_outcome bytes
  rw [h] at hout
  cases hout with
  | write _ rest | wait1 rest | endMark rest => exact ⟨rfl, rfl, rest, rfl⟩
  | wait lo hi rest => exact ⟨rfl, rfl, rest, by rw [encode, u16_low, u16_high]; rfl⟩
  | illegal op rest hwf => exact ⟨hwf, rfl, rest, rfl⟩

/-- Settles O4, by the decoder's outcomes. -/
theorem decodeFailsExactlyOnTruncatedCommands : Obligations.DecodeFailsExactlyOnTruncatedCommands := by
  unfold Obligations.DecodeFailsExactlyOnTruncatedCommands
  refine fun bytes e => ⟨fun h => ?_, ?_⟩
  · have hout := decode_outcome bytes
    rw [h] at hout
    cases hout with
    | noOpcode => exact .inl ⟨rfl, rfl⟩
    | writeTruncated => exact .inr (.inl ⟨.inl rfl, rfl⟩)
    | waitTruncated => exact .inr (.inl ⟨.inr rfl, rfl⟩)
    | waitHalf lo => exact .inr (.inr ⟨⟨lo, rfl⟩, rfl⟩)
  · rintro (⟨rfl, rfl⟩ | ⟨rfl | rfl, rfl⟩ | ⟨⟨lo, rfl⟩, rfl⟩) <;> rfl

end Sys2Proof.Machine
end

section

/-! ### The chip byte forms

The bit layout of each form first (30_encoding R90, R91, R93, R94); then a byte is the form's byte exactly when it lies
under the row's mask and the operands are its fields. -/

namespace Sys2Proof.Machine

open Sys2Proof.Laws.TableRow (toneLatchByte_row toneDataByte_row volumeByte_row noiseByte_row)

theorem toneLatchByte_eq_append : ∀ (c : BitVec 2) (r : BitVec 4), toneLatchByte c r = 1#1 ++ c ++ 0#1 ++ r := by decide

theorem toneDataByte_eq_append : ∀ r : BitVec 6, toneDataByte r = 0#2 ++ r := by decide

theorem volumeByte_eq_append : ∀ (c : BitVec 2) (a : BitVec 4), volumeByte c a = 1#1 ++ c ++ 1#1 ++ a := by decide

theorem noiseByte_eq_append : ∀ (m : BitVec 1) (r : BitVec 2), noiseByte m r = 0b11110#5 ++ m ++ r := by decide

theorem toneLatchByte_fields : ∀ (c : BitVec 2) (r : BitVec 4),
    (toneLatchByte c r).extractLsb' 5 2 = c ∧ (toneLatchByte c r).extractLsb' 0 4 = r := by decide

theorem toneDataByte_field : ∀ r : BitVec 6, (toneDataByte r).extractLsb' 0 6 = r := by decide

theorem volumeByte_fields : ∀ (c : BitVec 2) (a : BitVec 4),
    (volumeByte c a).extractLsb' 5 2 = c ∧ (volumeByte c a).extractLsb' 0 4 = a := by decide

theorem noiseByte_fields : ∀ (m : BitVec 1) (r : BitVec 2),
    (noiseByte m r).extractLsb' 2 1 = m ∧ (noiseByte m r).extractLsb' 0 2 = r := by decide

theorem toneLatchByte_of_mask : ∀ b : Byte, b &&& 0x90 = 0x80 →
    toneLatchByte (b.extractLsb' 5 2) (b.extractLsb' 0 4) = b := by decide

theorem toneDataByte_of_mask : ∀ b : Byte, b &&& 0xC0 = 0x00 → toneDataByte (b.extractLsb' 0 6) = b := by decide

theorem volumeByte_of_mask : ∀ b : Byte, b &&& 0x90 = 0x90 →
    volumeByte (b.extractLsb' 5 2) (b.extractLsb' 0 4) = b := by decide

theorem noiseByte_of_mask : ∀ b : Byte, b &&& 0xF8 = 0xF0 →
    noiseByte (b.extractLsb' 2 1) (b.extractLsb' 0 2) = b := by decide

theorem toneLatchByte_eq_iff {c : BitVec 2} {r : BitVec 4} {b : Byte} :
    toneLatchByte c r = b ↔ b &&& 0x90 = 0x80 ∧ c = b.extractLsb' 5 2 ∧ r = b.extractLsb' 0 4 := by
  constructor
  · rintro rfl
    obtain ⟨hc, hr⟩ := toneLatchByte_fields c r
    exact ⟨toneLatchByte_row c r, hc.symm, hr.symm⟩
  · rintro ⟨hmask, rfl, rfl⟩
    exact toneLatchByte_of_mask b hmask

theorem toneDataByte_eq_iff {r : BitVec 6} {b : Byte} :
    toneDataByte r = b ↔ b &&& 0xC0 = 0x00 ∧ r = b.extractLsb' 0 6 := by
  constructor
  · rintro rfl
    exact ⟨toneDataByte_row r, (toneDataByte_field r).symm⟩
  · rintro ⟨hmask, rfl⟩
    exact toneDataByte_of_mask b hmask

theorem volumeByte_eq_iff {c : BitVec 2} {a : BitVec 4} {b : Byte} :
    volumeByte c a = b ↔ b &&& 0x90 = 0x90 ∧ c = b.extractLsb' 5 2 ∧ a = b.extractLsb' 0 4 := by
  constructor
  · rintro rfl
    obtain ⟨hc, ha⟩ := volumeByte_fields c a
    exact ⟨volumeByte_row c a, hc.symm, ha.symm⟩
  · rintro ⟨hmask, rfl, rfl⟩
    exact volumeByte_of_mask b hmask

theorem noiseByte_eq_iff {m : BitVec 1} {r : BitVec 2} {b : Byte} :
    noiseByte m r = b ↔ b &&& 0xF8 = 0xF0 ∧ m = b.extractLsb' 2 1 ∧ r = b.extractLsb' 0 2 := by
  constructor
  · rintro rfl
    obtain ⟨hm, hr⟩ := noiseByte_fields m r
    exact ⟨noiseByte_row m r, hm.symm, hr.symm⟩
  · rintro ⟨hmask, rfl, rfl⟩
    exact noiseByte_of_mask b hmask

/-- A form is read from a byte under its row's mask, with the byte's fields for operands (30_encoding R89). -/
theorem mem_chipForms {i : Instr} {b : Byte} :
    i ∈ chipForms b ↔
      (b &&& 0x90 = 0x80 ∧ b.extractLsb' 5 2 ≠ 3) ∧ i = .toneLatch (b.extractLsb' 5 2) (b.extractLsb' 0 4) ∨
      b &&& 0xC0 = 0x00 ∧ i = .toneData (b.extractLsb' 0 6) ∨
      b &&& 0x90 = 0x90 ∧ i = .volume (b.extractLsb' 5 2) (b.extractLsb' 0 4) ∨
      b &&& 0xF8 = 0xF0 ∧ i = .noise (b.extractLsb' 2 1) (b.extractLsb' 0 2) := by
  simp only [chipForms, List.mem_append, List.mem_ite_nil_right, List.mem_singleton, or_assoc]
  rfl

/-- Nothing but a chip form is read from a chip byte (30_encoding R89). -/
theorem isChip_of_mem_chipForms {i : Instr} {b : Byte} (h : i ∈ chipForms b) : i.isChip = true := by
  rcases mem_chipForms.mp h with ⟨-, rfl⟩ | ⟨-, rfl⟩ | ⟨-, rfl⟩ | ⟨-, rfl⟩ <;> rfl

/-- Settles O5: each form has its own mask and fields; the other three forms are of another constructor. -/
theorem chipFormsAreTheEncodedBytes : Obligations.ChipFormsAreTheEncodedBytes := by
  unfold Obligations.ChipFormsAreTheEncodedBytes
  intro i b
  cases i with
  | toneLatch c r =>
    have hread : .toneLatch c r ∈ chipForms b ↔
        (b &&& 0x90 = 0x80 ∧ b.extractLsb' 5 2 ≠ 3) ∧ c = b.extractLsb' 5 2 ∧ r = b.extractLsb' 0 4 := by
      simp [mem_chipForms]
    have hencode : encode (.toneLatch c r) = [b] ↔ toneLatchByte c r = b := List.singleton_inj
    have hwf : (Instr.toneLatch c r).wf = true ↔ c ≠ 3 := bne_iff_ne
    rw [hread, hencode, hwf, toneLatchByte_eq_iff]
    constructor
    · rintro ⟨⟨hmask, hc⟩, rfl, rfl⟩
      exact ⟨rfl, hc, hmask, rfl, rfl⟩
    · rintro ⟨-, hc, hmask, rfl, rfl⟩
      exact ⟨⟨hmask, hc⟩, rfl, rfl⟩
  | toneData r =>
    have hencode : encode (.toneData r) = [b] ↔ toneDataByte r = b := List.singleton_inj
    rw [hencode, toneDataByte_eq_iff]
    simp [mem_chipForms, Instr.isChip, Instr.wf]
  | volume c a =>
    have hencode : encode (.volume c a) = [b] ↔ volumeByte c a = b := List.singleton_inj
    rw [hencode, volumeByte_eq_iff]
    simp [mem_chipForms, Instr.isChip, Instr.wf]
  | noise m r =>
    have hencode : encode (.noise m r) = [b] ↔ noiseByte m r = b := List.singleton_inj
    rw [hencode, noiseByte_eq_iff]
    simp [mem_chipForms, Instr.isChip, Instr.wf]
  | _ => exact ⟨fun h => absurd (isChip_of_mem_chipForms h) nofun, fun h => absurd h.1 nofun⟩

/-- RAW of a byte the sink takes appends it to the sink trace (42_register_encoder R170). -/
theorem rawByte_taken {s : State} (b : Byte) (h : sinkTakes 1 s) : rawByte b s = wroteAll [b] s :=
  emitThen_ok h

/-- Settles O39: a chip form is RAW of its byte, and the byte has the form's layout. -/
theorem chipFormsEmitTheirByte : Obligations.ChipFormsEmitTheirByte := by
  unfold Obligations.ChipFormsEmitTheirByte
  intro s hs
  refine ⟨fun c r => ?_, fun r => ?_, fun c a => ?_, fun m r => ?_⟩
  · rw [← toneLatchByte_eq_append, ← rawByte_taken _ hs]; rfl
  · rw [← toneDataByte_eq_append, ← rawByte_taken _ hs]; rfl
  · rw [← volumeByte_eq_append, ← rawByte_taken _ hs]; rfl
  · rw [← noiseByte_eq_append, ← rawByte_taken _ hs]; rfl

/-- Settles O1: the decoder's equations on the stream commands, and the forms of four chip bytes evaluated. -/
theorem specWordsDecodeToTheirRows : Obligations.SpecWordsDecodeToTheirRows :=
  ⟨decode_write _ _, decode_wait _ _ _, decode_wait1 _, decode_endMark _,
    decode_cons_illegal ((illegal_wf_iff _).mpr (by decide)), by decide, by decide, by decide, by decide⟩

end Sys2Proof.Machine
end

section

/-! ### Frames the register encoder builds -/

namespace Sys2Proof.Machine

/-- The tone register never exceeds the clamp (42_register_encoder R173). -/
theorem toneReg_le (f : Rat) : toneReg f ≤ 1021 := Nat.min_le_right _ _

/-- The fixed bits of a tone latch byte (30_encoding R90). -/
theorem toneLatchByte_fixedBits : ∀ (c : BitVec 2) (r : BitVec 4),
    (toneLatchByte c r).extractLsb' 7 1 = 1 ∧ (toneLatchByte c r).extractLsb' 4 1 = 0 := by decide

/-- The fixed bits of a tone data byte (30_encoding R91). -/
theorem toneDataByte_fixedBits : ∀ r : BitVec 6, (toneDataByte r).extractLsb' 6 2 = 0 := by decide

/-- A channel number fits its two bits (30_encoding R90). -/
theorem channel_toNat {channel : Int} (h0 : 0 ≤ channel) (h3 : channel ≤ 3) :
    ((BitVec.ofInt 2 channel).toNat : Int) = channel := by
  rw [BitVec.toNat_ofInt]
  omega

/-- A register value of 10 bits is its high 6 and its low 4 bits (30_encoding R92). -/
theorem toneValue_split {reg : Nat} (h : reg < 1024) :
    16 * ((BitVec.ofNat 10 reg).extractLsb' 4 6).toNat + ((BitVec.ofNat 10 reg).extractLsb' 0 4).toNat = reg := by
  simp only [BitVec.extractLsb'_toNat, BitVec.toNat_ofNat, Nat.shiftRight_eq_div_pow]
  omega

/-- Settles O34, by the layout of the two bytes and the split of the register value. -/
theorem setToneNeverEmitsReservedValues : Obligations.SetToneNeverEmitsReservedValues := by
  unfold Obligations.SetToneNeverEmitsReservedValues
  intro channel f h0 h2 _
  have hreg := toneReg_le f
  have hlatch := toneLatchByte_fixedBits (BitVec.ofInt 2 channel)
  have hfields := toneLatchByte_fields (BitVec.ofInt 2 channel)
  obtain ⟨hbit7, hbit4⟩ := hlatch ((BitVec.ofNat 10 (toneReg f)).extractLsb' 0 4)
  obtain ⟨hchannel, hlow⟩ := hfields ((BitVec.ofNat 10 (toneReg f)).extractLsb' 0 4)
  refine ⟨_, _, rfl, hbit7, ?_, hbit4, toneDataByte_fixedBits _, ?_, hreg⟩
  · rw [hchannel]; exact channel_toNat h0 (by omega)
  · rw [toneDataByte_field, hlow]; exact toneValue_split (by omega)

/-- The noise register's byte is the volume byte of channel 3 (30_encoding R95). -/
theorem noiseByte_eq_volumeByte : ∀ (m : BitVec 1) (r : BitVec 2), noiseByte m r = volumeByte 3 (0#1 ++ m ++ r) := by
  decide

/-- The attenuation that collides with a mode and a rate has them as its low three bits (70_reset_and_hazards R286). -/
theorem ofInt_mode_append_rate {mode rate : Int} (hm0 : 0 ≤ mode) (hm1 : mode ≤ 1) (hr0 : 0 ≤ rate) (hr3 : rate ≤ 3) :
    0#1 ++ BitVec.ofInt 1 mode ++ BitVec.ofInt 2 rate = BitVec.ofInt 4 (4 * mode + rate) := by
  interval_cases mode <;> interval_cases rate <;> rfl

/-- The two operations emit one frame (42_register_encoder R179). -/
theorem noiseFrame_eq_volumeFrame {mode rate : Int} (hm0 : 0 ≤ mode) (hm1 : mode ≤ 1) (hr0 : 0 ≤ rate) (hr3 : rate ≤ 3) :
    noiseFrame mode rate = volumeFrame 3 (15 - (4 * mode + rate)) := by
  rw [noiseFrame, noiseByte_eq_volumeByte, ofInt_mode_append_rate hm0 hm1 hr0 hr3, volumeFrame, sub_sub_cancel]
  rfl

/-- Settles O37: both operations are in their domain and emit one frame. -/
theorem noiseCollidesWithChannelThreeVolume : Obligations.NoiseCollidesWithChannelThreeVolume := by
  unfold Obligations.NoiseCollidesWithChannelThreeVolume
  intro mode rate s hm0 hm1 hr0 hr3
  have hnoise : noiseInDomain mode rate = true := (noiseInDomain_iff _ _).mpr ⟨hm0, hm1, hr0, hr3⟩
  have hvolume : volumeInDomain 3 (15 - (4 * mode + rate)) = true :=
    (volumeInDomain_iff _ _).mpr ⟨by decide, by decide, by omega, by omega⟩
  change execSetNoise mode rate s = execSetVolume 3 (15 - (4 * mode + rate)) s
  rw [execSetNoise, execSetVolume, hnoise, hvolume, noiseFrame_eq_volumeFrame hm0 hm1 hr0 hr3]

/-- An accepted SET_VOLUME in its domain, with the sink taking its byte (42_register_encoder R176). -/
theorem exec_setVolume_taken {channel volume : Int} {s : State} (hs : s.accepting = true)
    (hdomain : volumeInDomain channel volume = true) (htakes : sinkTakes 1 s) :
    exec (.setVolume channel volume) s = .next (respond .ok (wroteAll (volumeFrame channel volume) s)) := by
  change whenAccepting _ s = _
  rw [whenAccepting_next hs, hdomain, setOperation, if_pos rfl, emitThen_ok (by exact htakes)]

/-- The answers that are left when some bytes were taken. -/
theorem sinkTakes_wroteAll {bytes : List Byte} {n : Nat} {s : State} (h : sinkTakes (bytes.length + n) s) :
    sinkTakes n (wroteAll bytes s) := fun k hk => by
  rw [answerAt_wroteAll]
  exact h _ (Nat.add_lt_add_left hk _)

/-- One silence leaves the block ready for the next: the next answers are the sink's, and operations are accepted. -/
theorem exec_silence {channel : Int} {n : Nat} {s : State} (h0 : 0 ≤ channel) (h3 : channel ≤ 3)
    (hs : s.accepting = true) (htakes : sinkTakes (1 + n) s) :
    ∃ t, exec (.setVolume channel 0) s = .next t ∧ t.accepting = true ∧ sinkTakes n t ∧
      t.sinkTrace = s.sinkTrace ++ volumeFrame channel 0 := by
  have hdomain : volumeInDomain channel 0 = true := (volumeInDomain_iff _ _).mpr ⟨h0, h3, by decide, by decide⟩
  obtain ⟨-, hboot⟩ := (accepting_iff s).mp hs
  exact ⟨_, exec_setVolume_taken hs hdomain fun k hk => htakes k (by omega), (accepting_iff _).mpr ⟨rfl, hboot⟩,
    sinkTakes_wroteAll htakes, rfl⟩

/-- RESET with the sink taking its four bytes (42_register_encoder R181). -/
theorem exec_reset_taken {s : State} (hs : s.accepting = true) (htakes : sinkTakes 4 s) :
    exec .reset s = .next (rewind (wroteAll Config.resetSeq s)) := by
  change whenAccepting _ s = _
  rw [whenAccepting_next hs, emitThen_ok (by exact htakes)]

/-- The reset sequence is the four silences in channel order (30_encoding R101). -/
theorem resetSeq_eq_silences :
    Config.resetSeq = volumeFrame 0 0 ++ volumeFrame 1 0 ++ volumeFrame 2 0 ++ volumeFrame 3 0 := by decide

/-- Settles O42: four silences one after the other, and RESET's sequence cut into them. -/
theorem resetIsFourSilences : Obligations.ResetIsFourSilences := by
  unfold Obligations.ResetIsFourSilences
  intro s hs htakes
  obtain ⟨s₀, h₀, hs₀, htakes₀, htrace₀⟩ := exec_silence (channel := 0) (n := 3) (by decide) (by decide) hs htakes
  obtain ⟨s₁, h₁, hs₁, htakes₁, htrace₁⟩ := exec_silence (channel := 1) (n := 2) (by decide) (by decide) hs₀ htakes₀
  obtain ⟨s₂, h₂, hs₂, htakes₂, htrace₂⟩ := exec_silence (channel := 2) (n := 1) (by decide) (by decide) hs₁ htakes₁
  obtain ⟨s₃, h₃, -, -, htrace₃⟩ := exec_silence (channel := 3) (n := 0) (by decide) (by decide) hs₂ htakes₂
  refine ⟨s₀, s₁, s₂, s₃, _, h₀, h₁, h₂, h₃, exec_reset_taken hs htakes, ?_⟩
  change s.sinkTrace ++ Config.resetSeq = s₃.sinkTrace
  rw [htrace₃, htrace₂, htrace₁, htrace₀, resetSeq_eq_silences]
  simp only [List.append_assoc]

end Sys2Proof.Machine
end

section

/-! ### Requests and their answers -/

namespace Sys2Proof.Machine

/-- Settles O7: outside a tick a step looks at the requests alone. -/
theorem stepAcceptsTheNextRequest : Obligations.StepAcceptsTheNextRequest := by
  unfold Obligations.StepAcceptsTheNextRequest
  intro s hs
  obtain ⟨hidle, hboot⟩ := (accepting_iff s).mp hs
  refine ⟨fun op rest hin => ?_, fun hin => ?_⟩
  · simp [step, hboot, hidle, hin, takeRequest]
  · simp [step, hboot, hidle, hin]

/-- Every host operation runs only where operations are accepted (30_encoding R100). -/
theorem exec_eq_whenAccepting {i : Instr} (hi : i.isHost = true) : ∃ act, ∀ s, exec i s = whenAccepting act s := by
  cases i with
  | reset | load | tick | setTone | setVolume | setNoise => exact ⟨_, fun _ => rfl⟩
  | _ => cases hi

/-- Every stream command runs only inside a tick (41_playback R146). -/
theorem exec_eq_whenRunning {i : Instr} (hi : i.isStream = true) : ∃ act, ∀ s, exec i s = whenRunning act s := by
  cases i with
  | write | wait | wait1 | endMark | illegal => exact ⟨_, fun _ => rfl⟩
  | _ => cases hi

/-- Settles O11: each meaning is guarded by the phase it runs in. -/
theorem meaningsStopWhereNotAccepted : Obligations.MeaningsStopWhereNotAccepted := by
  unfold Obligations.MeaningsStopWhereNotAccepted
  refine fun i s => ⟨fun hi hs => ?_, fun hi hidle => ?_⟩
  · obtain ⟨act, e⟩ := exec_eq_whenAccepting hi
    rw [e, whenAccepting, hs]
    rfl
  · obtain ⟨act, e⟩ := exec_eq_whenRunning hi
    rw [e, whenRunning, hidle]

theorem unanswered_run {s : State} (h : s.phase = .run) : unanswered s = s.inbox.length + 1 := by
  simp [unanswered, h]

theorem unanswered_idle {s : State} (h : s.phase = .idle) : unanswered s = s.inbox.length := by
  simp [unanswered, h]

/-- The responses given and the operations still to be answered have one sum, and no response is taken back
(30_encoding R100). -/
def AnswersKept (s t : State) : Prop :=
  t.responses.length + unanswered t = s.responses.length + unanswered s ∧ s.responses <+: t.responses

/-- A step that answers nothing and neither starts nor ends an operation. -/
theorem AnswersKept.of_eq {s t : State} (hin : t.inbox = s.inbox) (hphase : t.phase = s.phase)
    (hresp : t.responses = s.responses) : AnswersKept s t := by
  simp [AnswersKept, unanswered, hin, hphase, hresp]

/-- Inside a tick a command either leaves the tick running or answers the TICK (41_playback R142). -/
theorem StreamStep.answer {i : Instr} {s t : State} (h : StreamStep s i t) :
    (t.phase = s.phase ∧ t.responses = s.responses) ∨ (t.phase = .idle ∧ ∃ r, t.responses = s.responses ++ [r]) := by
  cases h with
  | written | jumped => exact .inl ⟨rfl, rfl⟩
  | _ => exact .inr ⟨rfl, _, rfl⟩

/-- A host operation either starts a tick or is answered at once (41_playback R141). -/
theorem HostStep.answer {i : Instr} {s t : State} (h : HostStep s i t) :
    (t.phase = .run ∧ t.responses = s.responses) ∨ (t.phase = .idle ∧ ∃ r, t.responses = s.responses ++ [r]) := by
  cases h with
  | tickStarted => exact .inl ⟨rfl, rfl⟩
  | _ => exact .inr ⟨rfl, _, rfl⟩

/-- The answer to the tick in progress ends it. -/
theorem AnswersKept.of_answer {s t : State} (hrun : s.phase = .run) (hin : t.inbox = s.inbox) (hidle : t.phase = .idle)
    {r : Response} (hresp : t.responses = s.responses ++ [r]) : AnswersKept s t := by
  constructor
  · rw [unanswered_run hrun, unanswered_idle hidle, hin, hresp, List.length_append, List.length_singleton]
    omega
  · rw [hresp]; exact List.prefix_append _ _

theorem StreamStep.answersKept {i : Instr} {s t : State} (h : StreamStep s i t) (hrun : s.phase = .run) :
    AnswersKept s t := by
  obtain ⟨-, -, hin, -⟩ := h.environment_eq
  rcases h.answer with ⟨hphase, hresp⟩ | ⟨hidle, r, hresp⟩
  · exact .of_eq hin hphase hresp
  · exact .of_answer hrun hin hidle hresp

/-- The request taken is the tick in progress after the step, or it was answered. -/
theorem HostStep.answersKept {i : Instr} {s t : State} {op : HostOp} {rest : List HostOp}
    (h : HostStep (takeRequest rest s) i t) (hidle : s.phase = .idle) (hin : s.inbox = op :: rest) : AnswersKept s t := by
  obtain ⟨hrest, -⟩ := h.environment_eq
  rw [takeRequest_inbox] at hrest
  have hbefore : unanswered s = rest.length + 1 := by rw [unanswered_idle hidle, hin, List.length_cons]
  rcases h.answer with ⟨hphase, hresp⟩ | ⟨hphase, r, hresp⟩ <;> rw [takeRequest_responses] at hresp
  · have hafter : unanswered t = rest.length + 1 := by rw [unanswered_run hphase, hrest]
    simp [AnswersKept, hbefore, hafter, hresp]
  · have hafter : unanswered t = rest.length := by rw [unanswered_idle hphase, hrest]
    refine ⟨?_, by rw [hresp]; exact List.prefix_append _ _⟩
    rw [hbefore, hafter, hresp, List.length_append, List.length_singleton]
    omega

/-- Settles O49, by the outcomes of a step. -/
theorem everyRequestIsAnsweredOnce : Obligations.EveryRequestIsAnsweredOnce := by
  unfold Obligations.EveryRequestIsAnsweredOnce
  intro s t h
  change AnswersKept s t
  cases step_outcome h with
  | powerOn =>
    obtain ⟨bytes, k, e, -, -⟩ := powerOnEmission_frame s
    rw [e]
    exact .of_eq rfl rfl rfl
  | command _ hrun _ _ _ hs => exact hs.answersKept hrun
  | fetchFailed _ hrun => exact .of_answer hrun rfl rfl rfl
  | noRequest => exact .of_eq rfl rfl rfl
  | request _ _ hidle _ hin _ hs => exact hs.answersKept hidle hin

end Sys2Proof.Machine
end

section

/-! ### What the loader reads of a file -/

namespace Sys2Proof.Machine

section Reads

/-- A header word depends on its four bytes alone (20_memory R58). -/
theorem u32le_congr {f g : List Byte} {o : Nat} (h : ∀ i, o ≤ i → i < o + 4 → f[i]? = g[i]?) :
    u32le f o = u32le g o := by
  unfold u32le
  rw [h o (by omega) (by omega), h (o + 1) (by omega) (by omega), h (o + 2) (by omega) (by omega),
    h (o + 3) (by omega) (by omega)]

/-- The tag depends on the first four bytes alone (40_loader R121). -/
theorem tagOk_congr {f g : List Byte} (h : ∀ i, i < 4 → f[i]? = g[i]?) : tagOk f = tagOk g := by
  have htake : f.take 4 = g.take 4 := by
    refine List.ext_getElem? fun i => ?_
    by_cases hi : i < 4
    · rw [List.getElem?_take_of_lt hi, List.getElem?_take_of_lt hi, h i hi]
    · rw [List.getElem?_take_eq_none (by omega), List.getElem?_take_eq_none (by omega)]
  rw [tagOk, tagOk, htake]

/-- The stream's byte at an index is the file's byte 0x40 further on, up to the end the header states
(20_memory R51). -/
theorem streamOf_getElem? (file : List Byte) (eofOffset : Word32) (i : Nat) :
    (streamOf file eofOffset)[i]? = if 0x40 + i < eofOffset.toNat + 4 then file[0x40 + i]? else none := by
  rw [streamOf, Config.streamBase, List.getElem?_drop, List.getElem?_take]

/-- The stream depends on the bytes from 0x40 on alone (40_loader R125). -/
theorem streamOf_congr {f g : List Byte} (eofOffset : Word32) (h : ∀ i, 0x40 ≤ i → f[i]? = g[i]?) :
    streamOf f eofOffset = streamOf g eofOffset := by
  refine List.ext_getElem? fun i => ?_
  rw [streamOf_getElem?, streamOf_getElem?, h (0x40 + i) (by omega)]

/-- A file as long as its header states holds the whole stream (40_loader R125). -/
theorem streamOf_length {file : List Byte} {eofOffset : Word32} (h : eofOffset.toNat + 4 ≤ file.length) :
    (streamOf file eofOffset).length = eofOffset.toNat + 4 - 0x40 := by
  rw [streamOf, List.length_drop, List.length_take_of_le h, Config.streamBase]

/-- The loop offset counts from the stream's first byte: `0x1C - 0x40` is `-0x24` (40_loader R126). -/
theorem loopOffsetOf_eq (loopRaw : Word32) :
    loopOffsetOf loopRaw = if loopRaw = 0 then none else some ((loopRaw.toNat : Int) - 0x24) := by
  have hfields : (loopRaw.toNat : Int) + Config.loopField - Config.streamBase = loopRaw.toNat - 0x24 := by
    simp only [Config.loopField, Config.streamBase]
    omega
  rw [loopOffsetOf, hfields]

end Reads

section Appending

/-- A header word that is there stays the same when bytes are appended (40_loader R124). -/
theorem u32le_append {file : List Byte} {o : Nat} {w : Word32} (h : u32le file o = some w) (trailing : List Byte) :
    u32le (file ++ trailing) o = some w := by
  have hthere : ¬ file.length < o + 4 := by simp [← u32le_eq_none_iff, h]
  rw [← h]
  exact u32le_congr fun i _ hi => List.getElem?_append_left (by omega)

theorem tagOk_append {file : List Byte} (h : tagOk file = true) (trailing : List Byte) :
    tagOk (file ++ trailing) = true := by
  rw [tagOk_iff] at h ⊢
  exact h.trans (List.prefix_append file trailing)

theorem streamOf_append {file : List Byte} {eofOffset : Word32} (h : eofOffset.toNat + 4 ≤ file.length)
    (trailing : List Byte) : streamOf (file ++ trailing) eofOffset = streamOf file eofOffset := by
  rw [streamOf, streamOf, List.take_append_of_le_length h]

end Appending

end Sys2Proof.Machine
end

section

/-! ### The five steps of the loader: what each answers once those before it have passed -/

namespace Sys2Proof.Machine

section Steps

variable {file : List Byte}

theorem parseVgm_of_bad_tag (h : tagOk file = false) : parseVgm file = .error .invalidHeader := by
  simp [parseVgm, h]

variable (htag : tagOk file = true)
include htag

theorem parseVgm_of_version_missing (h : u32le file 8 = none) : parseVgm file = .error .truncatedFile := by
  simp [parseVgm, htag, h]

theorem parseVgm_of_version_ne {version : Word32} (h : u32le file 8 = some version)
    (hne : version ≠ Config.vgmVersion) : parseVgm file = .error (.unsupportedVersion version) := by
  simp [parseVgm, htag, h, hne]

variable (hversion : u32le file 8 = some Config.vgmVersion)
include hversion

theorem parseVgm_of_clock_missing (h : u32le file 12 = none) : parseVgm file = .error .truncatedFile := by
  simp [parseVgm, htag, hversion, h]

theorem parseVgm_of_clock_ne {clock : Word32} (h : u32le file 12 = some clock) (hne : clock ≠ Config.clockWord) :
    parseVgm file = .error (.unsupportedClock clock) := by
  simp [parseVgm, htag, hversion, h, hne]

variable (hclock : u32le file 12 = some Config.clockWord) {eofOffset : Word32} (heof : u32le file 4 = some eofOffset)
include hclock heof

theorem parseVgm_of_too_short (h : file.length < eofOffset.toNat + 4) : parseVgm file = .error .truncatedFile := by
  simp [parseVgm, htag, hversion, hclock, heof, h]

variable (hlen : eofOffset.toNat + 4 ≤ file.length)
include hlen

theorem parseVgm_of_loop_missing (h : u32le file 0x1C = none) : parseVgm file = .error .truncatedFile := by
  simp [parseVgm, htag, hversion, hclock, heof, Nat.not_lt.mpr hlen, Config.loopField, h]

theorem parseVgm_of_valid {loopRaw : Word32} (h : u32le file 0x1C = some loopRaw) :
    parseVgm file = .ok ⟨streamOf file eofOffset, loopOffsetOf loopRaw⟩ := by
  simp [parseVgm, htag, hversion, hclock, heof, Nat.not_lt.mpr hlen, Config.loopField, h]

end Steps

/-- The loader looks at the tag, four header words, the length and the stream, and at nothing else (40_loader R127). -/
theorem parseVgm_congr {f g : List Byte} (htag : tagOk f = tagOk g) (hversion : u32le f 8 = u32le g 8)
    (hclock : u32le f 12 = u32le g 12) (heof : u32le f 4 = u32le g 4) (hlen : f.length = g.length)
    (hloop : u32le f 0x1C = u32le g 0x1C) (hstream : ∀ eofOffset, streamOf f eofOffset = streamOf g eofOffset) :
    parseVgm f = parseVgm g := by
  simp only [parseVgm, Config.loopField, htag, hversion, hclock, heof, hlen, hloop, hstream]

/-- Settles O29: every read of the five steps lies within the file that was accepted. -/
theorem loadIgnoresTrailingBytes : Obligations.LoadIgnoresTrailingBytes := by
  unfold Obligations.LoadIgnoresTrailingBytes
  intro file trailing track hparse
  obtain ⟨eofOffset, loopRaw, heof, hlen, hloop, rfl, htag, hversion, hclock⟩ := parseVgm_ok hparse
  have hlen' : eofOffset.toNat + 4 ≤ (file ++ trailing).length := by
    rw [List.length_append]; omega
  rw [← streamOf_append hlen trailing]
  exact parseVgm_of_valid (tagOk_append htag trailing) (u32le_append hversion trailing)
    (u32le_append hclock trailing) (u32le_append heof trailing) hlen' (u32le_append hloop trailing)

/-- Settles O27: the length and the bytes of `streamOf`. -/
theorem loadedStreamIsTheFileSlice : Obligations.LoadedStreamIsTheFileSlice := by
  unfold Obligations.LoadedStreamIsTheFileSlice
  intro file eof track hparse heof
  obtain ⟨eofOffset, loopRaw, heof', hlen, -, rfl, -⟩ := parseVgm_ok hparse
  obtain rfl : eofOffset = eof := Option.some.inj (heof'.symm.trans heof)
  have hstream := streamOf_length hlen
  refine ⟨hstream, fun i (hi : i < (streamOf file eofOffset).length) => ?_⟩
  rw [streamOf_getElem?, if_pos (by omega)]

end Sys2Proof.Machine
end

section

/-! ### LOAD as an accepted operation -/

namespace Sys2Proof.Machine

/-- Outside a tick an answer is appended and nothing else changes (30_encoding R100). -/
theorem respond_of_accepting {s : State} (hs : s.accepting = true) (r : Response) :
    respond r s = { s with responses := s.responses ++ [r] } := by
  rw [respond, ← ((accepting_iff s).mp hs).1]

theorem exec_load_accepting {s : State} (hs : s.accepting = true) (file : List Byte) :
    exec (.load file) s = .next (loadFile file s) :=
  whenAccepting_next hs

/-- A file that fails a step is answered with that fault and nothing else changes (40_loader R132). -/
theorem exec_load_rejected {s : State} (hs : s.accepting = true) {file : List Byte} {f : BlockFault}
    (hparse : parseVgm file = .error f) :
    exec (.load file) s = .next { s with responses := s.responses ++ [.fault f] } := by
  rw [exec_load_accepting hs, loadFile, hparse]
  exact congrArg _ ((raise_idle ((accepting_iff s).mp hs).1).trans (respond_of_accepting hs _))

/-- A file that passes the five steps is committed and answered ok (40_loader R128). -/
theorem exec_load_accepted {s : State} (hs : s.accepting = true) {file : List Byte} {track : Track}
    (hparse : parseVgm file = .ok track) :
    exec (.load file) s = .next { s with
      commandStream := track.commandStream, loopOffset := track.loopOffset, cursor := 0, pendingTicks := 0,
      ended := false, fault := none, responses := s.responses ++ [.ok] } := by
  rw [exec_load_accepting hs, loadFile, hparse]
  exact congrArg _ (respond_of_accepting (s := commitTrack track s) hs .ok)

/-- LOAD depends on what its file parses to alone. -/
theorem exec_load_congr {f g : List Byte} (h : parseVgm f = parseVgm g) (s : State) :
    exec (.load f) s = exec (.load g) s := by
  change whenAccepting (loadFile f) s = whenAccepting (loadFile g) s
  rw [whenAccepting, whenAccepting, loadFile, loadFile, h]

/-- Settles O23: the file's words are those of `parseVgm_of_valid`. -/
theorem loadCommitsAValidFile : Obligations.LoadCommitsAValidFile := by
  unfold Obligations.LoadCommitsAValidFile
  intro file eof loopRaw s hs htag hversion hclock heof hlen hloop
  have hparse := parseVgm_of_valid (decide_eq_true htag) hversion hclock heof hlen hloop
  rw [loopOffsetOf_eq] at hparse
  exact exec_load_accepted hs hparse

/-- Settles O25: each clause is the loader's step whose word or length fails. -/
theorem loadReportsTheFirstViolation : Obligations.LoadReportsTheFirstViolation := by
  unfold Obligations.LoadReportsTheFirstViolation
  intro file s hs answer
  have hanswer : ∀ {f}, parseVgm file = .error f → answer f := exec_load_rejected hs
  have hmissing : ∀ {o}, file.length < o + 4 → u32le file o = none := (u32le_eq_none_iff file _).mpr
  refine ⟨fun hprefix => ?_, fun hprefix => ?_⟩
  · rw [← tagOk_iff, Bool.not_eq_true] at hprefix
    exact hanswer (parseVgm_of_bad_tag hprefix)
  have htag := (tagOk_iff file).mpr hprefix
  refine ⟨fun hlen => ?_, fun version hword hne => ?_, fun hversion => ⟨fun hlen => ?_, fun clock hword hne => ?_,
    fun hclock => ⟨fun eof heof hlen => ?_, fun eof heof hlen hshort => ?_⟩⟩⟩
  · exact hanswer (parseVgm_of_version_missing htag (hmissing hlen))
  · exact hanswer (parseVgm_of_version_ne htag hword hne)
  · exact hanswer (parseVgm_of_clock_missing htag hversion (hmissing hlen))
  · exact hanswer (parseVgm_of_clock_ne htag hversion hword hne)
  · exact hanswer (parseVgm_of_too_short htag hversion hclock heof hlen)
  · exact hanswer (parseVgm_of_loop_missing htag hversion hclock heof hlen (hmissing hshort))

/-- Settles O26: a LOAD has the two outcomes of the parse, and no load fault is latched. -/
theorem loadCommitsOrChangesNothing : Obligations.LoadCommitsOrChangesNothing := by
  unfold Obligations.LoadCommitsOrChangesNothing
  intro file s hs
  cases hparse : parseVgm file with
  | ok track => exact ⟨_, exec_load_accepted hs hparse, rfl, rfl, .inl ⟨rfl, rfl, rfl, rfl, rfl⟩⟩
  | error f => exact ⟨_, exec_load_rejected hs hparse, rfl, rfl, .inr ⟨f, rfl, parseVgm_error_unlatched hparse⟩⟩

/-- Settles O28: no byte the loader reads lies at an ignored offset. -/
theorem loadIgnoresUninterpretedHeaderBytes : Obligations.LoadIgnoresUninterpretedHeaderBytes := by
  unfold Obligations.LoadIgnoresUninterpretedHeaderBytes
  intro f g s hlen hagree
  have hword : ∀ {o}, o + 4 ≤ 0x10 → u32le f o = u32le g o := fun ho =>
    u32le_congr fun i _ _ => hagree i (by omega) (by omega)
  have hloop : u32le f 0x1C = u32le g 0x1C := u32le_congr fun i _ _ => hagree i (by omega) (by omega)
  have htag : tagOk f = tagOk g := tagOk_congr fun i _ => hagree i (by omega) (by omega)
  have hstream : ∀ eofOffset, streamOf f eofOffset = streamOf g eofOffset := fun eofOffset =>
    streamOf_congr eofOffset fun i _ => hagree i (by omega) (by omega)
  exact exec_load_congr (parseVgm_congr htag (hword (o := 8) (by decide)) (hword (o := 12) (by decide))
    (hword (o := 4) (by decide)) hlen hloop hstream) s

end Sys2Proof.Machine
end

section

/-! ### Stream commands inside a tick -/

namespace Sys2Proof.Machine

section Running

variable {s : State}

/-- Inside a tick a step is the command decoded at the cursor (41_playback R142). -/
theorem step_eq_exec {i : Instr} (hboot : s.bootPending = false) (hrun : s.phase = .run)
    (hd : decode (s.commandStream.drop s.cursor) = .ok i) : step s = exec i s := by
  simp [step, hboot, hrun, fetch, hd]

theorem length_drop_cursor (s : State) : (s.commandStream.drop s.cursor).length = s.N - s.cursor :=
  List.length_drop

/-- A failed fetch reports the end of the bytes it was given (41_playback R143, R144). -/
theorem truncationOffset_of_decode {bytes : List Byte} {e : DecodeError} (h : decode bytes = .error e) :
    truncationOffset e s = ((s.cursor + bytes.length : Nat) : Int) := by
  have hout := decode_outcome bytes
  rw [h] at hout
  cases hout <;> rfl

/-- A fetch fails at N, or at the cursor where that lies beyond N (41_playback R143, R144). -/
theorem step_of_failed_fetch {e : DecodeError} (hboot : s.bootPending = false) (hrun : s.phase = .run)
    (hd : decode (s.commandStream.drop s.cursor) = .error e) :
    step s = .next (latchAndAnswer (.truncatedStream ((max s.cursor s.N : Nat) : Int)) s) := by
  have hoffset : s.cursor + (s.commandStream.drop s.cursor).length = max s.cursor s.N := by
    rw [length_drop_cursor]; omega
  rw [step_fetchFault hboot hrun hd, fetchFault_eq_latchAndAnswer hrun, truncationOffset_of_decode hd, hoffset]

/-- WAIT with fewer than two operand bytes is not decoded (30_encoding R87). -/
theorem decode_wait_truncated {operands : List Byte} (h : operands.length ≤ 1) :
    ∃ e, decode (0x61 :: operands) = .error e := by
  match operands, h with
  | [], _ => exact ⟨_, rfl⟩
  | [_], _ => exact ⟨_, rfl⟩

theorem cursor_lt_of_readByte {op : Byte} (h : readByte s s.cursor = some op) : s.cursor < s.N :=
  (List.getElem?_eq_some_iff.mp h).1

/-- A WRITE or a WAIT that the stream cuts off (41_playback R144). -/
theorem step_of_missing_operand (hboot : s.bootPending = false) (hrun : s.phase = .run)
    (h : readByte s s.cursor = some 0x50 ∧ s.N ≤ s.cursor + 1 ∨ readByte s s.cursor = some 0x61 ∧ s.N ≤ s.cursor + 2) :
    step s = .next (latchAndAnswer (.truncatedStream s.N) s) := by
  have hfails : s.cursor < s.N ∧ ∃ e, decode (s.commandStream.drop s.cursor) = .error e := by
    rcases h with ⟨hop, hN⟩ | ⟨hop, hN⟩
    · rw [drop_of_readByte hop, List.drop_eq_nil_of_le hN]
      exact ⟨cursor_lt_of_readByte hop, _, rfl⟩
    · rw [drop_of_readByte hop]
      have hshort : (s.commandStream.drop (s.cursor + 1)).length ≤ 1 := by
        rw [List.length_drop]; exact Nat.sub_le_iff_le_add'.mpr hN
      exact ⟨cursor_lt_of_readByte hop, decode_wait_truncated hshort⟩
  obtain ⟨hlt, e, hd⟩ := hfails
  rw [step_of_failed_fetch hboot hrun hd, max_eq_right hlt.le]

theorem exec_write_running (hrun : s.phase = .run) (dd : Byte) :
    exec (.write dd) s = .next (emitThen [dd] (advance 2) s) :=
  whenRunning_next hrun

theorem exec_wait_running (hrun : s.phase = .run) (n : BitVec 16) :
    exec (.wait n) s = .next (pause (waitTicks n) 3 s) :=
  whenRunning_next hrun

theorem exec_wait1_running (hrun : s.phase = .run) : exec .wait1 s = .next (pause 1 1 s) :=
  whenRunning_next hrun

theorem exec_endMark_running (hrun : s.phase = .run) : exec .endMark s = .next (endOfStream s) :=
  whenRunning_next hrun

theorem exec_illegal_running (hrun : s.phase = .run) (op : Byte) :
    exec (.illegal op) s = .next (latchAndAnswer (.unknownCommand s.cursor op) s) :=
  (whenRunning_next hrun).trans (congrArg _ (raisePlayback_eq_latchAndAnswer hrun))

/-- The ticks of a WAIT from its two operand bytes (41_playback R147). -/
theorem waitTicks_u16 (lo hi : Byte) : waitTicks (u16 lo hi) = ((lo.toNat + 256 * hi.toNat) / 735 : Nat) := by
  rw [waitTicks, u16_toNat]; rfl

theorem endOfStream_of_no_loop (h : s.loopOffset = none) : endOfStream s = respond .ok (setEnded (advance 1 s)) := by
  rw [endOfStream, h]

theorem endOfStream_of_loop {l : Int} (h : s.loopOffset = some l) : endOfStream s = jumpToLoop l s := by
  rw [endOfStream, h]

end Running

/-- Settles O10: neither a stream command nor a failed fetch takes a request, nor does the power-on emission. -/
theorem noRequestIsAcceptedDuringATick : Obligations.NoRequestIsAcceptedDuringATick := by
  unfold Obligations.NoRequestIsAcceptedDuringATick
  intro s t hrun h
  cases step_outcome h with
  | powerOn =>
    obtain ⟨bytes, k, e, -, -⟩ := powerOnEmission_frame s
    rw [e]
  | command _ _ _ _ _ hs =>
    obtain ⟨-, -, hin, -⟩ := hs.environment_eq
    exact hin
  | fetchFailed => rfl
  | noRequest hidle | request _ _ hidle => cases hrun.symm.trans hidle

/-- Settles O6. -/
theorem stepRunsTheCommandAtTheCursor : Obligations.StepRunsTheCommandAtTheCursor := by
  unfold Obligations.StepRunsTheCommandAtTheCursor
  intro s i hboot hrun hd
  exact step_eq_exec hboot hrun hd

/-- Settles O17: beyond N there is nothing to decode. -/
theorem fetchPastTheEndRaisesTruncatedStream : Obligations.FetchPastTheEndRaisesTruncatedStream := by
  unfold Obligations.FetchPastTheEndRaisesTruncatedStream
  intro s hboot hrun hN
  have hd : decode (s.commandStream.drop s.cursor) = .error .noOpcode := by
    rw [List.drop_eq_nil_of_le hN]; rfl
  rw [step_of_failed_fetch hboot hrun hd, max_eq_left hN]
  rfl

/-- Settles O18: a failed fetch below N reports N; an opcode byte alone is a whole command if it is illegal. -/
theorem missingOperandRaisesTruncatedStreamAtN : Obligations.MissingOperandRaisesTruncatedStreamAtN := by
  unfold Obligations.MissingOperandRaisesTruncatedStreamAtN
  intro s hboot hrun
  refine ⟨step_of_missing_operand hboot hrun, fun op hop _ hwf => ?_⟩
  have hd : decode (s.commandStream.drop s.cursor) = .ok (.illegal op) := by
    rw [drop_of_readByte hop, decode_cons_illegal hwf]
  rw [step_eq_exec hboot hrun hd, exec_illegal_running hrun]
  rfl

/-- Settles O12, by the sink's answer. -/
theorem writeEmitsItsByte : Obligations.WriteEmitsItsByte := by
  unfold Obligations.WriteEmitsItsByte
  intro dd s hrun
  refine ⟨decode_write dd, fun htakes => ?_, fun hrefuses => ?_, fun hboot hop hN =>
    step_of_missing_operand hboot hrun (.inl ⟨hop, hN⟩)⟩
  · rw [exec_write_running hrun, emitThen_ok (by exact htakes)]
    rfl
  · have hfirst : sinkTakes 0 s := nofun
    rw [exec_write_running hrun, emitThen_refused (bs := [dd]) (k := 0) Nat.zero_lt_one hfirst hrefuses,
      raisePlayback_eq_latchAndAnswer (by exact hrun)]
    simp [latchAndAnswer, respond, wroteUntilRefusal, answered]

/-- Settles O13: the operand's two bytes give its ticks. -/
theorem waitAddsWholeTicks : Obligations.WaitAddsWholeTicks := by
  unfold Obligations.WaitAddsWholeTicks
  intro lo hi s hrun
  refine ⟨?_, ?_, decode_wait lo hi, fun hboot hop hN => step_of_missing_operand hboot hrun (.inr ⟨hop, hN⟩)⟩
  · rw [exec_wait_running hrun, waitTicks_u16]
    rfl
  · have hmax := (waitTicks_bounds (u16 lo hi)).2
    rw [waitTicks_u16] at hmax
    exact_mod_cast hmax

/-- Settles O14: 735 samples are one tick. -/
theorem waitOneAddsOneTick : Obligations.WaitOneAddsOneTick := by
  unfold Obligations.WaitOneAddsOneTick
  intro s hrun
  have htick : waitTicks 735 = 1 := by decide
  refine ⟨exec_wait1_running hrun, ⟨_, _, exec_wait1_running hrun, exec_wait_running hrun 735, ?_⟩, decode_wait1⟩
  rw [htick]
  rfl

/-- Settles O15, by the loop offset. -/
theorem endJumpsEndsOrFaultsByTheLoopOffset : Obligations.EndJumpsEndsOrFaultsByTheLoopOffset := by
  unfold Obligations.EndJumpsEndsOrFaultsByTheLoopOffset
  intro s hrun
  rw [exec_endMark_running hrun]
  refine ⟨fun l hloop hl => ?_, fun l hloop hout => ?_, fun hloop => ?_⟩
  · rw [endOfStream_of_loop hloop, jumpToLoop, if_pos ⟨by omega, by omega⟩]
    rfl
  · rw [endOfStream_of_loop hloop, jumpToLoop, if_neg (by omega), raisePlayback_eq_latchAndAnswer hrun]
    rfl
  · rw [endOfStream_of_no_loop hloop]
    rfl

end Sys2Proof.Machine
end

section

/-! ### TICK as an accepted operation -/

namespace Sys2Proof.Machine

section Entry

variable {s : State}

theorem tickVerdict_of_fault {f : PlaybackFault} (h : s.fault = some f) : tickVerdict s = some (.playback f) := by
  rw [tickVerdict, h]

theorem tickVerdict_of_ended (hfault : s.fault = none) (hended : s.ended = true) : tickVerdict s = some .endOfSong := by
  simp [tickVerdict, hfault, hended]

theorem tickVerdict_eq_none (hfault : s.fault = none) (hended : s.ended = false) : tickVerdict s = none := by
  simp [tickVerdict, hfault, hended]

/-- A TICK that an entry check stops is answered and changes nothing else (41_playback R140). -/
theorem exec_tick_stopped (hs : s.accepting = true) {f : BlockFault} (h : tickVerdict s = some f) :
    exec .tick s = .next { s with responses := s.responses ++ [.fault f] } := by
  have hidle := ((accepting_iff s).mp hs).1
  calc exec .tick s
    _ = .next (startTick s) := whenAccepting_next hs
    _ = .next (raise f s) := by rw [startTick, h]
    _ = .next { s with responses := s.responses ++ [.fault f] } := by rw [raise_idle hidle, respond_of_accepting hs]

/-- A TICK that passes the entry checks decrements the counter (41_playback R141). -/
theorem exec_tick_passed (hs : s.accepting = true) (hfault : s.fault = none) (hended : s.ended = false) :
    exec .tick s = .next (spendTick s) := by
  calc exec .tick s
    _ = .next (startTick s) := whenAccepting_next hs
    _ = .next (spendTick s) := by rw [startTick, tickVerdict_eq_none hfault hended]

theorem spendTick_of_pending (hs : s.accepting = true) (h : 0 < s.pendingTicks) :
    spendTick s = { s with pendingTicks := s.pendingTicks - 1, responses := s.responses ++ [.ok] } := by
  rw [spendTick, if_pos h]
  exact respond_of_accepting (s := { s with pendingTicks := s.pendingTicks - 1 }) hs .ok

theorem spendTick_of_spent (h : s.pendingTicks ≤ 0) :
    spendTick s = { s with pendingTicks := s.pendingTicks - 1, phase := .run } := by
  rw [spendTick, if_neg (not_lt.mpr h)]

/-- The decrement is done whatever the counter was (41_playback R141). -/
theorem spendTick_pendingTicks (s : State) : (spendTick s).pendingTicks = s.pendingTicks - 1 := by
  unfold spendTick
  split <;> rfl

end Entry

/-- Settles O20, by the entry checks in their order. -/
theorem tickRepeatsFaultThenEnd : Obligations.TickRepeatsFaultThenEnd := by
  unfold Obligations.TickRepeatsFaultThenEnd
  intro s hs
  exact ⟨fun f hfault => exec_tick_stopped hs (tickVerdict_of_fault hfault),
    fun hfault hended => exec_tick_stopped hs (tickVerdict_of_ended hfault hended),
    fun hfault hended => ⟨_, exec_tick_passed hs hfault hended, spendTick_pendingTicks s⟩⟩

/-- Settles O21, by the counter before the decrement. -/
theorem tickDecrementsThenIdlesOrInterprets : Obligations.TickDecrementsThenIdlesOrInterprets := by
  unfold Obligations.TickDecrementsThenIdlesOrInterprets
  intro s hs hfault hended
  rw [exec_tick_passed hs hfault hended]
  exact ⟨fun hpending => congrArg _ (spendTick_of_pending hs hpending),
    fun hspent => congrArg _ (spendTick_of_spent hspent)⟩

end Sys2Proof.Machine
end

section

/-! ### Loops

A tick in progress stops at a wait or a fault (41_playback R155, R156). `ReturnsWithin` counts the steps until then, and
`Circling` is what a loop with neither keeps from step to step; both go through `runningStep_cases`. -/

namespace Sys2Proof.Machine

section Step

variable {s : State}

/-- Inside a tick a step is a failed fetch or one of the outcomes of the command at the cursor. -/
theorem runningStep_cases (hboot : s.bootPending = false) (hrun : s.phase = .run) :
    (∃ e f, decode (s.commandStream.drop s.cursor) = .error e ∧ step s = .next (latchAndAnswer f s)) ∨
    ∃ i t, decode (s.commandStream.drop s.cursor) = .ok i ∧ step s = .next t ∧ StreamStep s i t := by
  cases hd : decode (s.commandStream.drop s.cursor) with
  | error e => exact .inl ⟨e, _, rfl, step_of_failed_fetch hboot hrun hd⟩
  | ok i =>
    have hstream := decode_isStream hd
    obtain ⟨act, hact⟩ := exec_eq_whenRunning hstream
    have hexec : exec i s = .next (act s) := (hact s).trans (whenRunning_next hrun)
    exact .inr ⟨i, _, rfl, (step_eq_exec hboot hrun hd).trans hexec, (exec_streamStep hstream hexec).2⟩

/-- A decoded WRITE has its byte within the stream. -/
theorem cursor_add_two_le {dd : Byte} (hd : decode (s.commandStream.drop s.cursor) = .ok (.write dd)) :
    s.cursor + 2 ≤ s.N := by
  have hlen : 2 ≤ (s.commandStream.drop s.cursor).length := encode_length_le_of_decode hd
  rw [length_drop_cursor] at hlen
  omega

/-- END with a loop offset in range can only jump (41_playback R149). -/
theorem StreamStep.jump_of_loop {t : State} {l : Nat} (h : StreamStep s .endMark t)
    (hloop : s.loopOffset = some (l : Int)) (hl : l < s.N) : t = { s with cursor := l } := by
  cases h with
  | jumped l' hl' => cases hloop.symm.trans hl'; rfl
  | loopOutOfRange l' hl' hout => cases hloop.symm.trans hl'; omega
  | finished hnone => cases hloop.symm.trans hnone

end Step

section Walk

variable {stream : List Byte} {i : Nat}

theorem pausesBeforeEnd_error {e : DecodeError} (h : decode (stream.drop i) = .error e) (fuel : Nat) :
    pausesBeforeEnd stream (fuel + 1) i = true := by
  simp only [pausesBeforeEnd, h]

theorem pausesBeforeEnd_write {dd : Byte} (h : decode (stream.drop i) = .ok (.write dd)) (fuel : Nat) :
    pausesBeforeEnd stream (fuel + 1) i = pausesBeforeEnd stream fuel (i + 2) := by
  simp only [pausesBeforeEnd, h]

theorem pausesBeforeEnd_endMark (h : decode (stream.drop i) = .ok .endMark) (fuel : Nat) :
    pausesBeforeEnd stream (fuel + 1) i = false := by
  simp only [pausesBeforeEnd, h]

/-- A wait or an illegal opcode stops the tick (70_reset_and_hazards R284). -/
theorem pausesBeforeEnd_other {cmd : Instr} (h : decode (stream.drop i) = .ok cmd) (hwrite : ∀ dd, cmd ≠ .write dd)
    (hend : cmd ≠ .endMark) (fuel : Nat) : pausesBeforeEnd stream (fuel + 1) i = true := by
  cases cmd with
  | write dd => exact absurd rfl (hwrite dd)
  | endMark => exact absurd rfl hend
  | _ => simp only [pausesBeforeEnd, h]

/-- With a loop offset in range the loop is walked from there (70_reset_and_hazards R284). -/
theorem loopHasWait_of_loop {s : State} {l : Int} (hloop : s.loopOffset = some l) (h0 : 0 ≤ l) (hN : l < s.N) :
    loopHasWait s = pausesBeforeEnd s.commandStream (s.N + 1) l.toNat := by
  simp only [loopHasWait, hloop, if_pos (And.intro h0 hN)]

end Walk

/-- Settles O46: no step but an END with no loop sets `ended`, and no step but a LOAD writes the track. -/
theorem loopingTrackNeverEnds : Obligations.LoopingTrackNeverEnds := by
  unfold Obligations.LoopingTrackNeverEnds
  intro s t l hloop hl hended h hload
  obtain ⟨hcs, hloop'⟩ := trackIsImmutableExceptByLoad s t h hload
  have hN : l < t.N := by rwa [State.N, hcs]
  suffices hend : t.ended = false ∧ (nextInstr s = some .endMark →
      t.cursor = l ∧ t.phase = .run ∧ t.pendingTicks = s.pendingTicks ∧ t.responses = s.responses) from
    ⟨hend.1, hloop'.trans hloop, hN, hend.2⟩
  cases step_outcome h with
  | powerOn _ hn =>
    obtain ⟨-, -, -, -, hended', -⟩ := powerOnEmission_block s
    exact ⟨hended'.trans hended, fun hi => by simp [hn] at hi⟩
  | command i hrun _ _ hn hs =>
    by_cases hi : i = .endMark
    · subst hi
      rw [hs.jump_of_loop hloop hl]
      exact ⟨hended, fun _ => ⟨rfl, hrun, rfl, rfl⟩⟩
    · exact ⟨(hs.ended_eq hi).trans hended, fun hi' => absurd (Option.some.inj (hn.symm.trans hi')) hi⟩
  | fetchFailed _ _ _ _ hn | noRequest _ _ _ hn => exact ⟨hended, fun hi => by simp [hn] at hi⟩
  | request op _ _ _ _ hn hs =>
    obtain ⟨-, -, hended', -⟩ := hs.track_eq (ne_load_of_nextInstr hn hload)
    refine ⟨hended'.trans hended, fun hi => ?_⟩
    have hop : op.toInstr = .endMark := Option.some.inj (hn.symm.trans hi)
    cases op <;> cases hop

/-! #### A loop with a wait -/

/-- After at most n steps no tick is in progress and exactly one response was added (41_playback R155). -/
def ReturnsWithin (n : Nat) (s : State) : Prop :=
  ∃ k t r, k ≤ n ∧ core.run k s = .next t ∧ t.phase = .idle ∧ t.responses = s.responses ++ [r]

namespace ReturnsWithin

variable {m n : Nat} {s t : State}

theorem of_answer {r : Response} (h : step s = .next t) (hidle : t.phase = .idle)
    (hresp : t.responses = s.responses ++ [r]) : ReturnsWithin (n + 1) s :=
  ⟨1, t, r, by omega, run_succ 0 h, hidle, hresp⟩

theorem of_step (h : step s = .next t) (hresp : t.responses = s.responses) (ht : ReturnsWithin m t) (hmn : m + 1 ≤ n) :
    ReturnsWithin n s := by
  obtain ⟨k, u, r, hk, hu, hidle, hresp'⟩ := ht
  exact ⟨k + 1, u, r, by omega, (run_succ k h).trans hu, hidle, by rw [hresp', hresp]⟩

end ReturnsWithin

/-- Where a wait or a fault comes before the next END, only WRITEs come before it, of two bytes each. -/
theorem returnsWithin_of_pausesBeforeEnd (fuel : Nat) (s : State) (hboot : s.bootPending = false)
    (hrun : s.phase = .run) (hpauses : pausesBeforeEnd s.commandStream fuel s.cursor = true) :
    ReturnsWithin ((s.N - s.cursor) / 2 + 1) s := by
  induction fuel generalizing s with
  | zero => cases hpauses
  | succ fuel ih =>
    rcases runningStep_cases hboot hrun with ⟨e, f, -, h⟩ | ⟨i, t, hd, h, hs⟩
    · exact .of_answer h rfl rfl
    · cases hs with
      | written dd =>
        rw [pausesBeforeEnd_write hd] at hpauses
        have hend := cursor_add_two_le hd
        have hsteps : (s.N - (s.cursor + 2)) / 2 + 1 + 1 ≤ (s.N - s.cursor) / 2 + 1 := by omega
        exact .of_step h rfl (ih _ hboot hrun hpauses) hsteps
      | jumped =>
        rw [pausesBeforeEnd_endMark hd] at hpauses
        cases hpauses
      | _ => exact .of_answer h rfl rfl

/-- A tick runs to an END at the worst, and from the loop offset on to a wait or a fault. -/
theorem returnsWithin_of_loopHasWait (s : State) (hboot : s.bootPending = false) (hrun : s.phase = .run)
    (hwait : loopHasWait s = true) : ReturnsWithin ((s.N - s.cursor) / 2 + 1 + (s.N / 2 + 1)) s := by
  induction hleft : s.N - s.cursor using Nat.strong_induction_on generalizing s with
  | _ left ih =>
    rcases runningStep_cases hboot hrun with ⟨e, f, -, h⟩ | ⟨i, t, hd, h, hs⟩
    · exact .of_answer h rfl rfl
    · cases hs with
      | written dd =>
        have hend := cursor_add_two_le hd
        have hsteps : (s.N - (s.cursor + 2)) / 2 + 1 + (s.N / 2 + 1) + 1 ≤ left / 2 + 1 + (s.N / 2 + 1) := by omega
        exact .of_step h rfl (ih (s.N - (s.cursor + 2)) (by omega) _ hboot hrun hwait rfl) hsteps
      | jumped l hloop h0 hN =>
        rw [loopHasWait_of_loop hloop h0 hN] at hwait
        have hsteps : (s.N - l.toNat) / 2 + 1 + 1 ≤ left / 2 + 1 + (s.N / 2 + 1) := by omega
        exact .of_step h rfl (returnsWithin_of_pausesBeforeEnd _ _ hboot hrun hwait) hsteps
      | _ => exact .of_answer h rfl rfl

/-- Settles O53: one way to an END and one way round the loop, each of at most N / 2 WRITEs. -/
theorem tickReturnsWhenTheLoopHasAWait : Obligations.TickReturnsWhenTheLoopHasAWait := by
  unfold Obligations.TickReturnsWhenTheLoopHasAWait
  intro s hboot hrun hwait
  obtain ⟨k, t, r, hk, h⟩ := returnsWithin_of_loopHasWait s hboot hrun hwait
  exact ⟨k, t, r, by omega, h⟩

/-! #### A loop without a wait -/

/-- What a tick on a loop with neither wait nor fault keeps: from the cursor on, too, an END comes first. The fuel of
the walk reaches the end of the stream, so that it was not cut short (41_playback R156). -/
structure Circling (s : State) : Prop where
  booted : s.bootPending = false
  running : s.phase = .run
  noWait : loopHasWait s = false
  endsFirst : ∃ fuel, s.N < s.cursor + fuel ∧ s.cursor ≤ s.N ∧ pausesBeforeEnd s.commandStream fuel s.cursor = false

/-- A loop that has no wait has an offset in range (70_reset_and_hazards R284). -/
theorem exists_loop_of_noWait {s : State} (h : loopHasWait s = false) :
    ∃ l : Nat, s.loopOffset = some (l : Int) ∧ l < s.N := by
  unfold loopHasWait at h
  split at h
  · cases h
  · rename_i l hloop
    split at h
    · rename_i hl
      obtain ⟨l, rfl⟩ := Int.eq_ofNat_of_zero_le hl.1
      exact ⟨l, hloop, by omega⟩
    · cases h

namespace Circling

variable {s : State}

theorem at_loopOffset {l : Nat} (hboot : s.bootPending = false) (hrun : s.phase = .run) (hno : loopHasWait s = false)
    (hloop : s.loopOffset = some (l : Int)) (hl : l < s.N) (hcursor : s.cursor = l) : Circling s := by
  refine ⟨hboot, hrun, hno, s.N + 1, by omega, by omega, ?_⟩
  rw [hcursor, ← hno, loopHasWait_of_loop hloop (by omega) (by omega), Int.toNat_natCast]

/-- The command at the cursor is a WRITE or an END, and with the sink's leave the loop goes on. -/
theorem step_keeps {k : Nat} (h : Circling s) (htakes : sinkTakes (1 + k) s) :
    ∃ t, step s = .next t ∧ Circling t ∧ sinkTakes k t ∧ t.responses = s.responses ∧ t.inbox = s.inbox := by
  obtain ⟨hboot, hrun, hno, fuel, hfuel, hcursor, hends⟩ := h
  obtain ⟨fuel, rfl⟩ : ∃ f, fuel = f + 1 := Nat.exists_eq_succ_of_ne_zero (by omega)
  rcases runningStep_cases hboot hrun with ⟨e, f, hd, -⟩ | ⟨i, t, hd, hstep, hs⟩
  · cases (pausesBeforeEnd_error hd fuel).symm.trans hends
  refine ⟨t, hstep, ?_⟩
  obtain ⟨l, hloop, hl⟩ := exists_loop_of_noWait hno
  by_cases hi : i = .endMark
  · subst hi
    rw [hs.jump_of_loop hloop hl]
    exact ⟨at_loopOffset hboot hrun hno hloop hl rfl, fun j hj => htakes j (by omega), rfl, rfl⟩
  cases hs with
  | written dd =>
    rw [pausesBeforeEnd_write hd] at hends
    have hend := cursor_add_two_le hd
    have hfuel' : s.N < s.cursor + 2 + fuel := by omega
    exact ⟨⟨hboot, hrun, hno, fuel, hfuel', hend, hends⟩, sinkTakes_wroteAll (bytes := [dd]) htakes, rfl, rfl⟩
  | writeRefused dd hrefuses => cases (htakes 0 (by omega)).symm.trans hrefuses
  | waited | waitedOne | rejected => cases (pausesBeforeEnd_other hd nofun nofun fuel).symm.trans hends
  | jumped | loopOutOfRange | finished => exact absurd rfl hi

/-- Any number of steps goes on circling while the sink takes a byte for each. -/
theorem run_keeps (k : Nat) (h : Circling s) (htakes : sinkTakes k s) :
    ∃ t, core.run k s = .next t ∧ Circling t ∧ t.responses = s.responses ∧ t.inbox = s.inbox := by
  induction k generalizing s with
  | zero => exact ⟨s, rfl, h, rfl, rfl⟩
  | succ k ih =>
    obtain ⟨t, hstep, ht, htakes', hresp, hin⟩ := h.step_keeps (by rwa [Nat.add_comm])
    obtain ⟨u, hrun, hu, hresp', hin'⟩ := ih ht htakes'
    exact ⟨u, (run_succ k hstep).trans hrun, hu, hresp'.trans hresp, hin'.trans hin⟩

end Circling

/-- Settles O54: a tick at the loop offset circles. -/
theorem tickWithoutAWaitNeverReturns : Obligations.TickWithoutAWaitNeverReturns := by
  unfold Obligations.TickWithoutAWaitNeverReturns
  intro s l k hboot hrun hloop hl hno hcursor htakes
  obtain ⟨t, ht, hcircling, h⟩ := (Circling.at_loopOffset hboot hrun hno hloop hl hcursor).run_keeps k htakes
  exact ⟨t, ht, hcircling.running, h⟩

end Sys2Proof.Machine
end

section

/-! ### The tone register

`toneQuotient` is a natural floor; `k ≤ toneQuotient f` is one comparison of the frequency with the k-th break point, and
every other statement about the register follows from it (42_register_encoder R172, R173). -/

namespace Sys2Proof.Machine

section ToneRegister

variable {f : Rat}

/-- The exact quotient as a fraction of two naturals (42_register_encoder R172). -/
theorem toneFraction_eq (hf : 0 < f) :
    (3579545 : Rat) / (f * 32) = ((3579545 * f.den : Nat) : Rat) / ((32 * f.num.toNat : Nat) : Rat) := by
  have hnum : ((f.num.toNat : Nat) : Rat) = f.num := by
    exact_mod_cast Int.toNat_of_nonneg (Rat.num_pos.mpr hf).le
  have hden : (f.den : Rat) ≠ 0 := Nat.cast_ne_zero.mpr f.den_nz
  have hmul : (f.num : Rat) = f * f.den := (Rat.mul_den_eq_num f).symm
  push_cast
  rw [hnum, hmul, ← mul_assoc, mul_comm 32 f, mul_div_mul_right _ _ hden]

theorem toneQuotient_eq_natFloor (hf : 0 < f) : toneQuotient f = ⌊(3579545 : Rat) / (f * 32)⌋₊ := by
  rw [toneFraction_eq hf, Nat.floor_div_eq_div]
  rfl

theorem toneQuotient_eq_floor (hf : 0 < f) : (toneQuotient f : Int) = ⌊(3579545 : Rat) / (f * 32)⌋ := by
  rw [toneQuotient_eq_natFloor hf, Int.natCast_floor_eq_floor (by positivity)]

/-- The k-th break point: the register is at least k up to 3579545/(32 k) Hz (42_register_encoder R172). -/
theorem le_toneQuotient_iff (hf : 0 < f) {k : Nat} (hk : 0 < k) :
    k ≤ toneQuotient f ↔ f ≤ (3579545 : Rat) / (32 * k) := by
  have hk' : (0 : Rat) < k := Nat.cast_pos.mpr hk
  calc k ≤ toneQuotient f
    _ ↔ (k : Rat) ≤ 3579545 / (f * 32) := by rw [toneQuotient_eq_natFloor hf, Nat.le_floor_iff' hk.ne']
    _ ↔ k * (f * 32) ≤ 3579545 := le_div_iff₀ (by positivity)
    _ ↔ f * (32 * k) ≤ 3579545 := by rw [mul_comm (k : Rat), mul_assoc]
    _ ↔ f ≤ 3579545 / (32 * k) := (le_div_iff₀ (by positivity)).symm

theorem toneQuotient_lt_iff (hf : 0 < f) {k : Nat} (hk : 0 < k) :
    toneQuotient f < k ↔ (3579545 : Rat) / (32 * k) < f := by
  rw [← not_le, le_toneQuotient_iff hf hk, not_le]

/-- The ceiling acts from 1022 on (42_register_encoder R173). -/
theorem toneReg_ne_toneQuotient_iff : toneReg f ≠ toneQuotient f ↔ 1022 ≤ toneQuotient f := by
  rw [toneReg, Config.regMax]
  omega

/-- Where the ceiling acts the register is the ceiling (42_register_encoder R173). -/
theorem toneReg_of_le (h : 1022 ≤ toneQuotient f) : toneReg f = 1021 := by
  rw [toneReg, Config.regMax]
  omega

theorem toneReg_eq_min_floor (hf : 0 < f) : (toneReg f : Int) = min ⌊(3579545 : Rat) / (f * 32)⌋ 1021 := by
  rw [← toneQuotient_eq_floor hf]
  exact Nat.cast_min _ _

end ToneRegister

/-- Settles O31: the value is k exactly when it is at least k and below k + 1. -/
theorem toneFormulaIsTheExactFloor : Obligations.ToneFormulaIsTheExactFloor := by
  unfold Obligations.ToneFormulaIsTheExactFloor
  intro f hf
  refine ⟨toneQuotient_eq_floor hf, rfl, ?_, fun k hk => ?_⟩
  · have hlt := toneQuotient_lt_iff hf one_pos
    rw [Nat.cast_one, mul_one] at hlt
    rw [← hlt, Nat.lt_one_iff]
  · have hlt := toneQuotient_lt_iff hf k.succ_pos
    rw [Nat.cast_succ] at hlt
    rw [← hlt, ← le_toneQuotient_iff hf hk]
    omega

/-- Settles O32: the ceiling acts at the break point of 1022. -/
theorem toneCeilingActsBelowItsBreakPoint : Obligations.ToneCeilingActsBelowItsBreakPoint := by
  unfold Obligations.ToneCeilingActsBelowItsBreakPoint
  intro f hf
  have hbreak : 1022 ≤ toneQuotient f ↔ f ≤ (3579545 : Rat) / (32 * 1022) :=
    le_toneQuotient_iff hf (k := 1022) (by decide)
  rw [← hbreak]
  exact ⟨rfl, toneReg_ne_toneQuotient_iff, toneReg_of_le⟩

end Sys2Proof.Machine
end

section

/-! ### What an accepted encoder operation emits and answers

A SET operation and a RESET end in `emittedAndAnswered`: bytes on the sink trace, the sink's answers used up, one response,
and no other item changed (42_register_encoder R182); RESET clears the cursor besides (R181). -/

namespace Sys2Proof.Machine

/-- The state once the sink was called `calls` times, took these bytes, and the host was answered. -/
def emittedAndAnswered (bytes : List Byte) (calls : Nat) (r : Response) (s : State) : State :=
  { answered calls s with sinkTrace := s.sinkTrace ++ bytes, responses := s.responses ++ [r] }

theorem emittedAndAnswered_nil (calls : Nat) (r : Response) (s : State) :
    emittedAndAnswered [] calls r s = { answered calls s with responses := s.responses ++ [r] } := by
  rw [emittedAndAnswered, List.append_nil]
  rfl

section Idle

variable {s : State} (hidle : s.phase = .idle)
include hidle

theorem respond_wroteAll_of_idle (bytes : List Byte) (r : Response) :
    respond r (wroteAll bytes s) = emittedAndAnswered bytes bytes.length r s := by
  rw [respond, ← hidle]
  rfl

/-- Outside a tick `SinkIoError` is answered and not latched (60_exceptions R241). -/
theorem raise_wroteUntilRefusal_of_idle (bytes : List Byte) :
    raisePlayback .sinkIo (wroteUntilRefusal bytes s) =
      emittedAndAnswered bytes (bytes.length + 1) (.fault (.playback .sinkIo)) s := by
  rw [raisePlayback, raise_idle (by exact hidle), respond, ← hidle]
  rfl

/-- Outside a tick an emission stopped at byte k leaves the k bytes before it (20_memory R53). -/
theorem emitThen_refused_of_idle {bytes : List Byte} {next : State → State} {k : Nat} (hk : k < bytes.length)
    (htakes : sinkTakes k s) (hrefuses : answerAt s k = .ioError) :
    emitThen bytes next s = emittedAndAnswered (bytes.take k) (k + 1) (.fault (.playback .sinkIo)) s := by
  rw [emitThen_refused hk htakes hrefuses, raise_wroteUntilRefusal_of_idle hidle, List.length_take_of_le hk.le]

theorem setOperation_outOfRange (frame : List Byte) :
    setOperation false frame s = { s with responses := s.responses ++ [.fault .outOfRangeParameter] } := by
  calc setOperation false frame s
    _ = raise .outOfRangeParameter s := rfl
    _ = respond (.fault .outOfRangeParameter) s := raise_idle hidle
    _ = { s with responses := s.responses ++ [.fault .outOfRangeParameter] } := by rw [respond, ← hidle]

end Idle

/-- An instruction that checks its operands and emits a frame (42_register_encoder R171, R176, R178). -/
def IsSetOf (i : Instr) (inDomain : Bool) (frame : List Byte) : Prop :=
  ∀ s, exec i s = whenAccepting (setOperation inDomain frame) s

theorem isSetOf_setTone (channel : Int) (f : Rat) :
    IsSetOf (.setTone channel f) (toneInDomain channel f) (toneFrame channel (toneReg f)) := fun _ => rfl

theorem isSetOf_setVolume (channel volume : Int) :
    IsSetOf (.setVolume channel volume) (volumeInDomain channel volume) (volumeFrame channel volume) := fun _ => rfl

theorem isSetOf_setNoise (mode shiftRate : Int) :
    IsSetOf (.setNoise mode shiftRate) (noiseInDomain mode shiftRate) (noiseFrame mode shiftRate) := fun _ => rfl

namespace IsSetOf

variable {i : Instr} {inDomain : Bool} {frame : List Byte} {s t : State}

theorem exec_outOfRange (h : IsSetOf i inDomain frame) (hs : s.accepting = true) (hdomain : ¬ inDomain = true) :
    exec i s = .next { s with responses := s.responses ++ [.fault .outOfRangeParameter] } := by
  obtain rfl : inDomain = false := Bool.eq_false_iff.mpr hdomain
  rw [h, whenAccepting_next hs, setOperation_outOfRange ((accepting_iff s).mp hs).1]

/-- In domain, with the sink taking the frame, a SET operation is RAW of its bytes and then ok
(42_register_encoder R174, R176, R178). -/
theorem exec_taken (h : IsSetOf i inDomain frame) (hs : s.accepting = true) (hdomain : inDomain = true)
    (htakes : sinkTakes frame.length s) : exec i s = .next (respond .ok (wroteAll frame s)) := by
  rw [h, whenAccepting_next hs, setOperation, if_pos hdomain, emitThen_ok htakes]

theorem exec_emitted (h : IsSetOf i inDomain frame) (hs : s.accepting = true) (hdomain : inDomain = true)
    (htakes : sinkTakes frame.length s) : exec i s = .next (emittedAndAnswered frame frame.length .ok s) := by
  rw [h.exec_taken hs hdomain htakes, respond_wroteAll_of_idle ((accepting_iff s).mp hs).1]

theorem exec_refused (h : IsSetOf i inDomain frame) (hs : s.accepting = true) (hdomain : inDomain = true) {k : Nat}
    (hk : k < frame.length) (htakes : sinkTakes k s) (hrefuses : answerAt s k = .ioError) :
    exec i s = .next (emittedAndAnswered (frame.take k) (k + 1) (.fault (.playback .sinkIo)) s) := by
  rw [h, whenAccepting_next hs, setOperation, if_pos hdomain,
    emitThen_refused_of_idle ((accepting_iff s).mp hs).1 hk htakes hrefuses]

/-- A frame the sink refuses from its first byte leaves the sink trace as it is (20_memory R53). -/
theorem exec_refused_first (h : IsSetOf i inDomain frame) (hs : s.accepting = true) (hdomain : inDomain = true)
    (hframe : 0 < frame.length) (hrefuses : answerAt s 0 = .ioError) :
    exec i s = .next { answered 1 s with responses := s.responses ++ [.fault (.playback .sinkIo)] } := by
  rw [h.exec_refused hs hdomain hframe nofun hrefuses, List.take_zero, emittedAndAnswered_nil]

end IsSetOf

end Sys2Proof.Machine
end

section

/-! ### The bytes of the frames, from the spec's formulas -/

namespace Sys2Proof.Machine

/-- An operand that fits w bits is the value of its field. -/
theorem toNat_ofInt_of_lt {w : Nat} {n : Int} (h0 : 0 ≤ n) (hn : n < 2 ^ w) : ((BitVec.ofInt w n).toNat : Int) = n := by
  rw [BitVec.toNat_ofInt, Int.emod_eq_of_lt h0 (by exact_mod_cast hn), Int.toNat_of_nonneg h0]

/-- An operand that fits its field is not changed by the byte's other bits. -/
theorem zeroExtend_ofInt {w v : Nat} {n : Int} (h0 : 0 ≤ n) (hn : n < 2 ^ w) (hwv : w ≤ v) :
    (BitVec.ofInt w n).zeroExtend v = BitVec.ofInt v n := by
  obtain ⟨m, rfl⟩ := Int.eq_ofNat_of_zero_le h0
  rw [BitVec.ofInt_natCast, BitVec.ofInt_natCast]
  exact BitVec.setWidth_ofNat_of_le_of_lt hwv (by exact_mod_cast hn)

/-- The low 4 bits of a tone value, in the latch byte (42_register_encoder R174). -/
theorem toneLow_zeroExtend (reg : Nat) :
    ((BitVec.ofNat 10 reg).extractLsb' 0 4).zeroExtend 8 = BitVec.ofNat 8 (reg &&& 0xF) := by
  have hmask : reg &&& 0xF = reg % 2 ^ 4 := Nat.and_two_pow_sub_one_eq_mod reg 4
  apply BitVec.eq_of_toNat_eq
  rw [hmask]
  simp

/-- The high 6 bits of a tone value, the data byte (42_register_encoder R174). -/
theorem toneHigh_zeroExtend {reg : Nat} (h : reg < 1024) :
    ((BitVec.ofNat 10 reg).extractLsb' 4 6).zeroExtend 8 = BitVec.ofNat 8 (reg >>> 4) := by
  apply BitVec.eq_of_toNat_eq
  simp [Nat.shiftRight_eq_div_pow]
  omega

theorem toneFrame_eq {channel : Int} {reg : Nat} (h0 : 0 ≤ channel) (h2 : channel ≤ 2) (hreg : reg ≤ 1021) :
    toneFrame channel reg = [0x80#8 ||| (BitVec.ofInt 8 channel <<< 5) ||| BitVec.ofNat 8 (reg &&& 0xF),
      BitVec.ofNat 8 (reg >>> 4)] := by
  rw [toneFrame, toneLatchByte, toneDataByte, zeroExtend_ofInt h0 (by omega) (by decide),
    toneLow_zeroExtend, toneHigh_zeroExtend (by omega)]
  rfl

theorem volumeFrame_eq {channel volume : Int} (hc0 : 0 ≤ channel) (hc3 : channel ≤ 3) (hv0 : 0 ≤ volume)
    (hv15 : volume ≤ 15) : volumeFrame channel volume =
      [0x90#8 ||| (BitVec.ofInt 8 channel <<< 5) ||| BitVec.ofInt 8 (15 - volume)] := by
  rw [volumeFrame, volumeByte, zeroExtend_ofInt hc0 (by omega) (by decide),
    zeroExtend_ofInt (by omega) (by omega) (by decide)]
  rfl

theorem noiseFrame_eq {mode shiftRate : Int} (hm0 : 0 ≤ mode) (hm1 : mode ≤ 1) (hr0 : 0 ≤ shiftRate)
    (hr3 : shiftRate ≤ 3) : noiseFrame mode shiftRate =
      [Config.noiseBase ||| (BitVec.ofInt 8 mode <<< 2) ||| BitVec.ofInt 8 shiftRate] := by
  rw [noiseFrame, noiseByte, noiseByteOver, zeroExtend_ofInt hm0 (by omega) (by decide),
    zeroExtend_ofInt hr0 (by omega) (by decide)]

end Sys2Proof.Machine
end

section

/-! ### The SET operations and RESET -/

namespace Sys2Proof.Machine

/-- Settles O33: the operand check, then the frame with the sink taking both bytes, none, or the first alone. -/
theorem setToneEmitsLatchThenData : Obligations.SetToneEmitsLatchThenData := by
  unfold Obligations.SetToneEmitsLatchThenData
  intro channel f s hs
  have hset := isSetOf_setTone channel f
  refine ⟨fun hout => hset.exec_outOfRange hs (mt (toneInDomain_iff _ _).mp hout), fun h0 h2 hf reg hreg => ?_⟩
  have hdomain : toneInDomain channel f = true := (toneInDomain_iff _ _).mpr ⟨h0, h2, hf⟩
  obtain rfl : reg = toneReg f := by rw [← toneReg_eq_min_floor hf] at hreg; exact_mod_cast hreg
  rw [toneFrame_eq h0 h2 (toneReg_le f)] at hset
  refine ⟨fun htakes => hset.exec_emitted hs hdomain htakes,
    fun hrefuses => hset.exec_refused_first hs hdomain Nat.two_pos hrefuses, fun htakes hrefuses => ?_⟩
  have hfirst : sinkTakes 1 s := fun k hk => by rw [Nat.lt_one_iff.mp hk]; exact htakes
  exact hset.exec_refused hs hdomain (k := 1) Nat.one_lt_two hfirst hrefuses

/-- Settles O35: the operand check, then the one byte taken or refused. -/
theorem setVolumeEmitsTheInvertedVolume : Obligations.SetVolumeEmitsTheInvertedVolume := by
  unfold Obligations.SetVolumeEmitsTheInvertedVolume
  intro channel volume s hs
  have hset := isSetOf_setVolume channel volume
  refine ⟨fun hout => hset.exec_outOfRange hs (mt (volumeInDomain_iff _ _).mp hout), fun hc0 hc3 hv0 hv15 => ?_⟩
  have hdomain : volumeInDomain channel volume = true := (volumeInDomain_iff _ _).mpr ⟨hc0, hc3, hv0, hv15⟩
  rw [volumeFrame_eq hc0 hc3 hv0 hv15] at hset
  exact ⟨fun htakes => hset.exec_emitted hs hdomain htakes,
    fun hrefuses => hset.exec_refused_first hs hdomain Nat.one_pos hrefuses⟩

/-- Settles O36: the operand check, then the one byte taken or refused. -/
theorem setNoiseEmitsOverNoiseBase : Obligations.SetNoiseEmitsOverNoiseBase := by
  unfold Obligations.SetNoiseEmitsOverNoiseBase
  intro mode shiftRate s hs
  have hset := isSetOf_setNoise mode shiftRate
  refine ⟨fun hout => hset.exec_outOfRange hs (mt (noiseInDomain_iff _ _).mp hout), fun hm0 hm1 hr0 hr3 => ?_⟩
  have hdomain : noiseInDomain mode shiftRate = true := (noiseInDomain_iff _ _).mpr ⟨hm0, hm1, hr0, hr3⟩
  rw [noiseFrame_eq hm0 hm1 hr0 hr3] at hset
  exact ⟨fun htakes => hset.exec_emitted hs hdomain htakes,
    fun hrefuses => hset.exec_refused_first hs hdomain Nat.one_pos hrefuses⟩

/-- RESET with its four bytes taken clears the cursor (42_register_encoder R181). -/
theorem exec_reset_emitted {s : State} (hs : s.accepting = true) (htakes : sinkTakes 4 s) :
    exec .reset s = .next { emittedAndAnswered Config.resetSeq 4 .ok s with cursor := 0 } :=
  (exec_reset_taken hs htakes).trans
    (congrArg _ (respond_of_accepting (s := { wroteAll Config.resetSeq s with cursor := 0 }) hs .ok))

/-- RESET stopped at a refused byte keeps the cursor (20_memory R53). -/
theorem exec_reset_refused {s : State} (hs : s.accepting = true) {k : Nat} (hk : k < 4) (htakes : sinkTakes k s)
    (hrefuses : answerAt s k = .ioError) : exec .reset s =
      .next (emittedAndAnswered (Config.resetSeq.take k) (k + 1) (.fault (.playback .sinkIo)) s) :=
  (whenAccepting_next hs).trans
    (congrArg _ (emitThen_refused_of_idle ((accepting_iff s).mp hs).1 hk htakes hrefuses))

/-- Settles O22, by the sink's answers. -/
theorem resetEmitsTheSequenceAndClearsTheCursor : Obligations.ResetEmitsTheSequenceAndClearsTheCursor := by
  unfold Obligations.ResetEmitsTheSequenceAndClearsTheCursor
  exact fun s hs => ⟨exec_reset_emitted hs, fun k => exec_reset_refused hs⟩

end Sys2Proof.Machine
end

section

/-! ### The encoder reads operands and the sink's answers alone -/

namespace Sys2Proof.Machine

/-- Of n bytes the sink takes all, or some byte is the first it refuses (20_memory R53). -/
theorem sinkTakes_or_refusal (n : Nat) (s : State) :
    sinkTakes n s ∨ ∃ k, k < n ∧ sinkTakes k s ∧ answerAt s k = .ioError := by
  have hcases := emit_cases (List.replicate n 0) s
  rw [List.length_replicate] at hcases
  rcases hcases with ⟨htakes, -⟩ | ⟨k, hk, htakes, hrefuses, -⟩
  · exact .inl htakes
  · exact .inr ⟨k, hk, htakes, hrefuses⟩

section TwoStates

variable {s t : State} (hanswers : ∀ k, answerAt s k = answerAt t k)
include hanswers

theorem sinkTakes_congr {n : Nat} (h : sinkTakes n s) : sinkTakes n t :=
  fun k hk => (hanswers k).symm.trans (h k hk)

variable (hs : s.accepting = true) (ht : t.accepting = true)
include hs ht

/-- A SET operation has one effect in the two states (42_register_encoder R182). -/
theorem IsSetOf.exec_congr {i : Instr} {inDomain : Bool} {frame : List Byte} (h : IsSetOf i inDomain frame) :
    ∃ bytes calls r, exec i s = .next (emittedAndAnswered bytes calls r s) ∧
      exec i t = .next (emittedAndAnswered bytes calls r t) := by
  by_cases hdomain : inDomain = true
  · rcases sinkTakes_or_refusal frame.length s with htakes | ⟨k, hk, htakes, hrefuses⟩
    · exact ⟨_, _, _, h.exec_emitted hs hdomain htakes, h.exec_emitted ht hdomain (sinkTakes_congr hanswers htakes)⟩
    · exact ⟨_, _, _, h.exec_refused hs hdomain hk htakes hrefuses,
        h.exec_refused ht hdomain hk (sinkTakes_congr hanswers htakes) ((hanswers k).symm.trans hrefuses)⟩
  · refine ⟨[], 0, .fault .outOfRangeParameter, ?_, ?_⟩ <;> rw [emittedAndAnswered_nil]
    · exact h.exec_outOfRange hs hdomain
    · exact h.exec_outOfRange ht hdomain

/-- RESET has one effect in the two states, the cursor apart (42_register_encoder R182). -/
theorem exec_reset_congr : ∃ bytes calls r cursor cursor',
    exec .reset s = .next { emittedAndAnswered bytes calls r s with cursor := cursor } ∧
      exec .reset t = .next { emittedAndAnswered bytes calls r t with cursor := cursor' } := by
  rcases sinkTakes_or_refusal 4 s with htakes | ⟨k, hk, htakes, hrefuses⟩
  · exact ⟨_, _, _, 0, 0, exec_reset_emitted hs htakes, exec_reset_emitted ht (sinkTakes_congr hanswers htakes)⟩
  · exact ⟨_, _, _, s.cursor, t.cursor, exec_reset_refused hs hk htakes hrefuses,
      exec_reset_refused ht hk (sinkTakes_congr hanswers htakes) ((hanswers k).symm.trans hrefuses)⟩

end TwoStates

/-- Settles O38: equal answers to come give each operation one effect in both states. -/
theorem encoderReadsNoStateOfTheBlock : Obligations.EncoderReadsNoStateOfTheBlock := by
  unfold Obligations.EncoderReadsNoStateOfTheBlock
  intro i s t hi hs ht hlist hcalls
  have hanswers := answerAt_congr hlist hcalls
  have hidle := ((accepting_iff s).mp hs).1
  have hcases : i = .reset ∨ ∃ inDomain frame, IsSetOf i inDomain frame := by
    rcases hi with rfl | ⟨c, f, rfl⟩ | ⟨c, v, rfl⟩ | ⟨m, r, rfl⟩
    · exact .inl rfl
    · exact .inr ⟨_, _, isSetOf_setTone c f⟩
    · exact .inr ⟨_, _, isSetOf_setVolume c v⟩
    · exact .inr ⟨_, _, isSetOf_setNoise m r⟩
  rcases hcases with rfl | ⟨inDomain, frame, hset⟩
  · obtain ⟨bytes, calls, r, cursor, cursor', hexec, hexec'⟩ := exec_reset_congr hanswers hs ht
    exact ⟨_, _, bytes, r, hexec, hexec', rfl, rfl, rfl, rfl, rfl, hidle, fun hne => absurd rfl hne⟩
  · obtain ⟨bytes, calls, r, hexec, hexec'⟩ := hset.exec_congr hanswers hs ht
    exact ⟨_, _, bytes, r, hexec, hexec', rfl, rfl, rfl, rfl, rfl, hidle, fun _ => ⟨rfl, rfl, rfl, rfl, rfl⟩⟩

end Sys2Proof.Machine
end

section

/-! ### The chip byte forms as steps of their own (log 1) -/

namespace Sys2Proof.Machine

/-- Every chip form is RAW of the byte it encodes to (42_register_encoder R170). -/
theorem exec_chip {i : Instr} (hi : i.isChip = true) : ∃ b, encode i = [b] ∧ ∀ s, exec i s = .next (rawByte b s) := by
  cases i with
  | toneLatch | toneData | volume | noise => exact ⟨_, rfl, fun _ => rfl⟩
  | _ => cases hi

theorem exec_chip_taken {i : Instr} (hi : i.isChip = true) {s : State} (htakes : sinkTakes 1 s) :
    exec i s = .next (wroteAll (encode i) s) := by
  obtain ⟨b, hencode, hexec⟩ := exec_chip hi
  rw [hexec, hencode, rawByte_taken b htakes]

/-- RAW takes its byte, or raises `SinkIoError` (20_memory R53). -/
theorem rawByte_cases (b : Byte) (s : State) :
    (sinkTakes 1 s ∧ rawByte b s = wroteAll [b] s) ∨
    (answerAt s 0 = .ioError ∧ rawByte b s = raisePlayback .sinkIo (wroteUntilRefusal [] s)) := by
  rcases emitThen_cases [b] id s with ⟨htakes, e⟩ | ⟨k, hk, -, hrefuses, e⟩
  · exact .inl ⟨htakes, e⟩
  · obtain rfl : k = 0 := Nat.lt_one_iff.mp hk
    exact .inr ⟨hrefuses, e⟩

/-- Whatever the sink answers, RAW leaves the track, the cursor, the counter and the requests (42_register_encoder R170). -/
theorem rawByte_frame (b : Byte) (s : State) :
    (rawByte b s).commandStream = s.commandStream ∧ (rawByte b s).loopOffset = s.loopOffset ∧
      (rawByte b s).cursor = s.cursor ∧ (rawByte b s).pendingTicks = s.pendingTicks ∧
      (rawByte b s).ended = s.ended ∧ (rawByte b s).inbox = s.inbox ∧ (rawByte b s).bootPending = s.bootPending := by
  rcases rawByte_cases b s with ⟨-, e⟩ | ⟨-, e⟩ <;> rw [e] <;> exact ⟨rfl, rfl, rfl, rfl, rfl, rfl, rfl⟩

/-- Outside a tick a refused byte is answered and changes nothing else (20_memory R53, 60_exceptions R241). -/
theorem rawByte_refused_of_idle {s : State} (b : Byte) (hrefuses : answerAt s 0 = .ioError) (hidle : s.phase = .idle) :
    rawByte b s = { answered 1 s with responses := s.responses ++ [.fault (.playback .sinkIo)] } := by
  rw [rawByte, emitThen_refused_of_idle hidle (bytes := [b]) (k := 0) Nat.one_pos nofun hrefuses, List.take_zero,
    emittedAndAnswered_nil]

/-- Settles O40: a chip form is RAW of its byte, and the latch is written inside a tick alone. -/
theorem chipFormsFrame : Obligations.ChipFormsFrame := by
  unfold Obligations.ChipFormsFrame
  intro i s hi
  obtain ⟨b, -, hexec⟩ := exec_chip hi
  rw [hexec]
  refine ⟨?_, fun hrefuses hidle => congrArg _ (rawByte_refused_of_idle b hrefuses hidle)⟩
  rintro t ⟨⟩
  obtain ⟨hcs, hloop, hcur, hpend, hended, hin, hboot⟩ := rawByte_frame b s
  refine ⟨hcs, hloop, readByte_congr hcs, hcur, hpend, hended, hin, hboot, fun h => ?_⟩
  rcases rawByte_cases b s with ⟨-, e⟩ | ⟨hrefuses, -⟩
  · rw [e]; exact ⟨rfl, rfl⟩
  · rcases h with htakes | hidle
    · cases hrefuses.symm.trans (htakes 0 Nat.one_pos)
    · rw [rawByte_refused_of_idle b hrefuses hidle]; exact ⟨rfl, rfl⟩

/-- Settles O41: the frame is written byte by byte, each byte by its chip form. -/
theorem setOperationsAreTheirChipForms : Obligations.SetOperationsAreTheirChipForms := by
  unfold Obligations.SetOperationsAreTheirChipForms
  intro s hs
  refine ⟨fun channel f h0 h2 hf htakes => ?_, fun channel volume hc0 hc3 hv0 hv15 htakes => ?_,
    fun mode shiftRate hm0 hm1 hr0 hr3 htakes => ?_⟩
  · have hdomain : toneInDomain channel f = true := (toneInDomain_iff _ _).mpr ⟨h0, h2, hf⟩
    have hreg := toneReg_le f
    have hlatch : sinkTakes 1 s := fun k hk => htakes k (by omega)
    refine ⟨_, _, _, _, _, toNat_ofInt_of_lt h0 (by omega), toneValue_split (reg := toneReg f) (by omega),
      exec_chip_taken rfl hlatch, exec_chip_taken rfl (sinkTakes_wroteAll htakes), ?_⟩
    rw [(isSetOf_setTone channel f).exec_taken hs hdomain htakes, wroteAll_append]
    rfl
  · have hdomain : volumeInDomain channel volume = true := (volumeInDomain_iff _ _).mpr ⟨hc0, hc3, hv0, hv15⟩
    exact ⟨_, _, _, toNat_ofInt_of_lt hc0 (by omega), toNat_ofInt_of_lt (by omega) (by omega),
      exec_chip_taken rfl htakes, (isSetOf_setVolume channel volume).exec_taken hs hdomain htakes⟩
  · have hdomain : noiseInDomain mode shiftRate = true := (noiseInDomain_iff _ _).mpr ⟨hm0, hm1, hr0, hr3⟩
    exact ⟨_, _, _, toNat_ofInt_of_lt hm0 (by omega), toNat_ofInt_of_lt hr0 (by omega),
      exec_chip_taken rfl htakes, (isSetOf_setNoise mode shiftRate).exec_taken hs hdomain htakes⟩

end Sys2Proof.Machine
end

section

/-! ### The note sequencer

What one token does is said once, by `playTokens_cons_cases`; each claim about scripts is then an induction over the
tokens with two cases. -/

namespace Sys2Proof.Machine

/-- The operations among these actions are SET_TONE and SET_VOLUME (43_note_sequencer_host R200). -/
def IssuesToneAndVolumeOnly (actions : List HostAction) : Prop :=
  ∀ op ∈ requestsOf actions, (∃ c f, op = .setTone c f) ∨ ∃ c v, op = .setVolume c v

@[simp] theorem requestsOf_append (before after : List HostAction) :
    requestsOf (before ++ after) = requestsOf before ++ requestsOf after := List.filterMap_append

theorem IssuesToneAndVolumeOnly.append {before after : List HostAction} (hbefore : IssuesToneAndVolumeOnly before)
    (hafter : IssuesToneAndVolumeOnly after) : IssuesToneAndVolumeOnly (before ++ after) := fun op hop =>
  (List.mem_append.mp (requestsOf_append before after ▸ hop)).elim (hbefore op) (hafter op)

theorem issuesToneAndVolumeOnly_nil : IssuesToneAndVolumeOnly [] := nofun

theorem issuesToneAndVolumeOnly_setTone (c : Int) (f : Rat) : IssuesToneAndVolumeOnly [.issue (.setTone c f)] :=
  fun _ hop => .inl ⟨c, f, List.mem_singleton.mp hop⟩

theorem issuesToneAndVolumeOnly_setVolume (c v : Int) : IssuesToneAndVolumeOnly [.issue (.setVolume c v)] :=
  fun _ hop => .inr ⟨c, v, List.mem_singleton.mp hop⟩

/-- A note is one tone and two volumes; its holds are no operations (43_note_sequencer_host R208). -/
theorem issuesToneAndVolumeOnly_noteActions (voice octave ticks index : Nat) :
    IssuesToneAndVolumeOnly (noteActions voice octave ticks index) :=
  (issuesToneAndVolumeOnly_setTone _ _).append <|
    (issuesToneAndVolumeOnly_setVolume _ _).append (issuesToneAndVolumeOnly_setVolume _ _)

/-- A token adds its actions before those of the tokens that follow, or ends the script short of its end of input
(43_note_sequencer_host R203 to R208, R212). -/
theorem playTokens_cons_cases (d : Defaults) (token : Token) (rest : List Token) :
    (∃ actions d', IssuesToneAndVolumeOnly actions ∧
      playTokens d (token :: rest) = (actions ++ (playTokens d' rest).1, (playTokens d' rest).2)) ∨
    ∃ actions scriptEnd, IssuesToneAndVolumeOnly actions ∧ scriptEnd ≠ .done ∧
      playTokens d (token :: rest) = (actions, scriptEnd) := by
  obtain ⟨voice, octave, duration⟩ := d
  cases token with
  | voice n => exact .inl ⟨[], ⟨some n, octave, duration⟩, issuesToneAndVolumeOnly_nil, rfl⟩
  | octave n => exact .inl ⟨[], ⟨voice, some n, duration⟩, issuesToneAndVolumeOnly_nil, rfl⟩
  | duration n => exact .inl ⟨[], ⟨voice, octave, some n⟩, issuesToneAndVolumeOnly_nil, rfl⟩
  | unknown => exact .inr ⟨[], .unknownToken, issuesToneAndVolumeOnly_nil, nofun, rfl⟩
  | setVol n =>
    match voice with
    | none => exact .inr ⟨[], .unsetDefault, issuesToneAndVolumeOnly_nil, nofun, rfl⟩
    | some v =>
      have hissue := issuesToneAndVolumeOnly_setVolume v n
      by_cases hdomain : volumeInDomain v n = true
      · exact .inl ⟨_, ⟨some v, octave, duration⟩, hissue, if_pos hdomain⟩
      · exact .inr ⟨_, .encodingError, hissue, nofun, if_neg hdomain⟩
  | note i =>
    match voice, octave, duration with
    | some v, some o, some t =>
      by_cases hdomain : toneInDomain v (noteFrequency o i) = true
      · exact .inl ⟨_, ⟨some v, some o, some t⟩, issuesToneAndVolumeOnly_noteActions v o t i, if_pos hdomain⟩
      · exact .inr ⟨_, .encodingError, issuesToneAndVolumeOnly_setTone v _, nofun, if_neg hdomain⟩
    | none, _, _ | some _, none, _ | some _, some _, none =>
      exact .inr ⟨[], .unsetDefault, issuesToneAndVolumeOnly_nil, nofun, rfl⟩

/-- From any defaults, tokens issue tones and volumes alone (43_note_sequencer_host R200). -/
theorem issuesToneAndVolumeOnly_playTokens (d : Defaults) (tokens : List Token) :
    IssuesToneAndVolumeOnly (playTokens d tokens).1 := by
  induction tokens generalizing d with
  | nil => exact issuesToneAndVolumeOnly_setVolume 0 0
  | cons token rest ih =>
    rcases playTokens_cons_cases d token rest with ⟨actions, d', hactions, e⟩ | ⟨actions, _, hactions, -, e⟩ <;> rw [e]
    · exact hactions.append (ih d')
    · exact hactions

/-- From any defaults, tokens played to their end close with the panic-silence (43_note_sequencer_host R210). -/
theorem getLast?_requestsOf_playTokens_of_done (d : Defaults) (tokens : List Token)
    (hdone : (playTokens d tokens).2 = .done) :
    (requestsOf (playTokens d tokens).1).getLast? = some (.setVolume 0 0) := by
  induction tokens generalizing d with
  | nil => rfl
  | cons token rest ih =>
    rcases playTokens_cons_cases d token rest with ⟨actions, d', -, e⟩ | ⟨actions, _, -, hend, e⟩ <;> rw [e] at hdone ⊢
    · rw [requestsOf_append, List.getLast?_append, ih d' hdone, Option.some_or]
    · exact absurd hdone hend

/-- Settles O55: each token issues tones and volumes alone, and so does the end of input. -/
theorem scriptsIssueOnlyToneAndVolume : Obligations.ScriptsIssueOnlyToneAndVolume := by
  unfold Obligations.ScriptsIssueOnlyToneAndVolume
  exact fun script => issuesToneAndVolumeOnly_playTokens _ (scan script.toList)

/-- Settles O56: every token but those that end the script early leaves the last operation to the tokens after it. -/
theorem finishedScriptsEndInPanicSilence : Obligations.FinishedScriptsEndInPanicSilence := by
  unfold Obligations.FinishedScriptsEndInPanicSilence
  exact fun script => getLast?_requestsOf_playTokens_of_done _ (scan script.toList)

end Sys2Proof.Machine
end

section

/-! ### Exceptions

A fault of the block is a response and a next state, so no step stops the machine (60_exceptions R240, R246). -/

namespace Sys2Proof.Machine

/-- The first step after power-on is the emission (70_reset_and_hazards R271). -/
theorem step_powerOn {s : State} (hboot : s.bootPending = true) : step s = .next (powerOnEmission s) :=
  if_pos hboot

/-- Every request has a next state where it is accepted, its faults being answers (30_encoding R100). -/
theorem exec_request_next {s : State} (hs : s.accepting = true) (op : HostOp) :
    ∃ t, exec op.toInstr s = .next t := by
  obtain ⟨act, hact⟩ := exec_eq_whenAccepting (toInstr_isHost op)
  exact ⟨act s, (hact s).trans (whenAccepting_next hs)⟩

/-- Settles O8: the power-on emission, a tick's command or failed fetch, and a request each run where their meaning
applies, and a block with no request stays as it is. -/
theorem everyStepAnswersNext : Obligations.EveryStepAnswersNext := by
  unfold Obligations.EveryStepAnswersNext
  intro s
  cases hboot : s.bootPending with
  | true => exact ⟨_, step_powerOn hboot⟩
  | false =>
    cases hphase : s.phase with
    | run =>
      rcases runningStep_cases hboot hphase with ⟨_, _, -, hfault⟩ | ⟨_, t, -, hnext, -⟩
      · exact ⟨_, hfault⟩
      · exact ⟨t, hnext⟩
    | idle =>
      have hs := (accepting_iff s).mpr ⟨hphase, hboot⟩
      obtain ⟨hrequest, hstay⟩ := stepAcceptsTheNextRequest s hs
      cases hin : s.inbox with
      | nil => exact ⟨s, hstay hin⟩
      | cons op rest =>
        rw [hrequest op rest hin]
        exact exec_request_next (s := takeRequest rest s) hs op

/-- Settles O16: an illegal opcode byte is a whole command, whatever follows it. -/
theorem illegalOpcodeRaisesUnknownCommand : Obligations.IllegalOpcodeRaisesUnknownCommand := by
  unfold Obligations.IllegalOpcodeRaisesUnknownCommand
  intro op s hrun
  refine ⟨exec_illegal_running hrun op, fun hboot hop hwrite hwait hwait1 hend => step_eq_exec hboot hrun ?_⟩
  have hwf := (illegal_wf_iff op).mpr ⟨hwrite, hwait, hwait1, hend⟩
  rw [drop_of_readByte hop, decode_cons_illegal hwf]

/-- Settles O24: the tag is the loader's first step. -/
theorem badTagIsAlwaysInvalidHeader : Obligations.BadTagIsAlwaysInvalidHeader := by
  unfold Obligations.BadTagIsAlwaysInvalidHeader
  intro file s hs hprefix
  rw [← tagOk_iff, Bool.not_eq_true] at hprefix
  exact exec_load_rejected hs (parseVgm_of_bad_tag hprefix)

end Sys2Proof.Machine
end

section

/-! ### Power-on

The emission that goes before every operation is `emit` of the reset sequence with its answer dropped: nothing is
reported or latched, whatever the sink answers (70_reset_and_hazards R271). -/

namespace Sys2Proof.Machine

variable {s : State}

theorem powerOnEmission_taken (htakes : sinkTakes 4 s) :
    powerOnEmission s = { wroteAll Config.resetSeq s with bootPending := false } := by
  rw [powerOnEmission, emit_ok Config.resetSeq s htakes]

theorem powerOnEmission_refused {k : Nat} (hk : k < 4) (htakes : sinkTakes k s) (hrefuses : answerAt s k = .ioError) :
    powerOnEmission s = { wroteUntilRefusal (Config.resetSeq.take k) s with bootPending := false } := by
  rw [powerOnEmission, emit_refused Config.resetSeq s k hk htakes hrefuses]

/-- Settles O9: the pending emission is the step, and the sink's answers say how much of it is written. -/
theorem powerOnEmitsTheResetSequence : Obligations.PowerOnEmitsTheResetSequence := by
  unfold Obligations.PowerOnEmitsTheResetSequence
  intro s hboot
  rw [step_powerOn hboot]
  constructor
  · intro htakes
    rw [powerOnEmission_taken htakes, Config.resetSeq]
  · intro k hk htakes hrefuses
    rw [powerOnEmission_refused hk htakes hrefuses, Config.resetSeq]

end Sys2Proof.Machine
end
